-- ==== Sys2Proof/Word.lean ====
section
/-! DEFINITION. The two word types of the block: registers (10_state.md R20, R21) and command words
(30_encoding.md R80). -/

namespace Sys2Proof

/-- The 32-bit view of a register (10_state.md R20), unsigned (R21). -/
abbrev Word := BitVec 32

/-- A command word: one format length, 64 bits (30_encoding.md R80). -/
abbrev CommandWord := BitVec 64

end Sys2Proof
end

