-- ==== Sys2Proof/Syntax.lean ====
section
/-! DEFINITION. The operations of the block, one constructor per row of spec/opcode_table.json
(30_encoding.md R84), with the operands of R82 as unsigned fields. -/

namespace Sys2Proof

/-- The complete operation set (30_encoding.md R84), in the table's order. -/
inductive Instr where
  /-- `LOADCFG`, format AC: register number in `a`, value in `c` (44_lifecycle.md R170). -/
  | loadcfg (reg : BitVec 8) (val : Word)
  /-- `VALIDATE`, format Z (40_configuration.md R102). -/
  | validate
  /-- `BIND`, format A: role number in `a` (40_configuration.md R104). -/
  | bind (role : BitVec 8)
  /-- `CONFIGURE_DIVIDER`, format C: divider in `c` (40_configuration.md R109). -/
  | configureDivider (div : Word)
  /-- `INIT`, format Z (40_configuration.md R110). -/
  | init
  /-- `START`, format Z (44_lifecycle.md R173). -/
  | start
  /-- `SHUTDOWN`, format Z (44_lifecycle.md R174). -/
  | shutdown
  /-- `RESET`, format Z (44_lifecycle.md R176). -/
  | reset
  /-- `STATUS_READ`, format A: register number in `a` (44_lifecycle.md R171). -/
  | statusRead (reg : BitVec 8)
  /-- `TICK`, format Z, Idle to SelectPlane (41_scheduler.md R128). -/
  | tick
  /-- `SELECT`, format Z, SelectPlane to Shifting or Idle (41_scheduler.md R129). -/
  | select
  /-- `SHIFT_DONE`, format Z, Shifting to Latching (41_scheduler.md R130). -/
  | shiftDone
  /-- `LATCH_DONE`, format Z, Latching to Blanking (41_scheduler.md R132). -/
  | latchDone
  /-- `BLANK_DONE`, format Z, Blanking to Idle (41_scheduler.md R133). -/
  | blankDone
  /-- `EMIT`, format AB: plane in `a`, row address in `b` (42_sequencer.md R140). -/
  | emit (plane : BitVec 8) (row : BitVec 16)
  /-- `START_PULSE_TRAIN`, format C: pulse count in `c` (42_sequencer.md R148). -/
  | startPulseTrain (count : Word)
  /-- `ON_CYCLE_COMPLETE`, format A: result in `a` (42_sequencer.md R152). -/
  | onCycleComplete (result : BitVec 8)
  /-- `GET_ACTIVE_ROW_PLANE`, format AB: plane in `a`, row address in `b` (43_framebuffer.md R160). -/
  | getActiveRowPlane (plane : BitVec 8) (row : BitVec 16)
  /-- `SWAP_BUFFERS`, format Z (43_framebuffer.md R162). -/
  | swapBuffers
  /-- `FB_WRITE`, format ABC: channel in `a`, physical row in `b`, column in `c[31:16]`, value in
  `c[15:0]` (43_framebuffer.md R164). -/
  | fbWrite (ch : BitVec 8) (y : BitVec 16) (x : BitVec 16) (val : BitVec 16)
  deriving DecidableEq, Repr

end Sys2Proof
end

