-- ==== Sys2Proof/WellFormed.lean ====
section
/-! DEFINITION. Which operand values the spec reserves whatever the configuration holds
(30_encoding.md R90, V4 of 93_implementation_defined.md). An operation with a reserved operand
decodes and is then refused (R92); the ranges that depend on the configuration are checked by the
meanings. -/

namespace Sys2Proof

/-- The register numbers `LOADCFG` may name: `0x00` to `0x09` and `0x10` to `0x29`
(44_lifecycle.md R170). -/
def isConfigRegister (n : BitVec 8) : Bool :=
  n.toNat ≤ 0x09 || (0x10 ≤ n.toNat && n.toNat ≤ 0x29)

/-- The register numbers of 10_state.md R21 to R39: the configuration registers and `0x40` to `0x4C`;
every other number is reserved (R20). -/
def isRegister (n : BitVec 8) : Bool :=
  isConfigRegister n || (0x40 ≤ n.toNat && n.toNat ≤ 0x4C)

/-- No operand of the operation is reserved (30_encoding.md R90). -/
def Instr.wellFormed : Instr → Bool
  | .loadcfg reg _ => isConfigRegister reg
  | .validate => true
  | .bind role => role.toNat ≤ 25
  | .configureDivider _ => true
  | .init => true
  | .start => true
  | .shutdown => true
  | .reset => true
  | .statusRead reg => isRegister reg
  | .tick => true
  | .select => true
  | .shiftDone => true
  | .latchDone => true
  | .blankDone => true
  | .emit _ _ => true
  | .startPulseTrain _ => true
  | .onCycleComplete result => result.toNat == 1 || result.toNat == 3
  | .getActiveRowPlane _ _ => true
  | .swapBuffers => true
  | .fbWrite ch _ _ _ => ch.toNat ≤ 2

end Sys2Proof
end

