-- ==== Sys2Proof/Decode.lean ====
section
/-! DEFINITION. Decoding and encoding of command words: fields 30_encoding.md R80, formats R81,
operands R82, operation codes R84, reserved codes R89. Decoding is total on 64-bit words and rejects
by name. -/

namespace Sys2Proof

/-- `op`, bits [63:56] (30_encoding.md R80). -/
def fieldOp (w : CommandWord) : BitVec 8 := w.extractLsb' 56 8

/-- `a`, bits [55:48] (R80). -/
def fieldA (w : CommandWord) : BitVec 8 := w.extractLsb' 48 8

/-- `b`, bits [47:32] (R80). -/
def fieldB (w : CommandWord) : BitVec 16 := w.extractLsb' 32 16

/-- `c`, bits [31:0] (R80). -/
def fieldC (w : CommandWord) : BitVec 32 := w.extractLsb' 0 32

/-- `c[31:16]` (R82, the column of `FB_WRITE`). -/
def fieldCHigh (w : CommandWord) : BitVec 16 := w.extractLsb' 16 16

/-- `c[15:0]` (R82, the value of `FB_WRITE`). -/
def fieldCLow (w : CommandWord) : BitVec 16 := w.extractLsb' 0 16

/-- Why a word stands for no operation. -/
inductive DecodeError where
  /-- The operation code is one of R89's reserved values. -/
  | reservedOpcode
  /-- A field the operation's format does not use is not 0 (R81). -/
  | unusedFieldNotZero
  deriving DecidableEq, Repr

/-- Accepts `i` when the unused fields are zero (R81). -/
def unusedZero (ok : Bool) (i : Instr) : Except DecodeError Instr :=
  if ok then .ok i else .error .unusedFieldNotZero

/-- Format Z: `a`, `b`, `c` unused (R81). -/
def formatZ (w : CommandWord) (i : Instr) : Except DecodeError Instr :=
  unusedZero (fieldA w == 0 && fieldB w == 0 && fieldC w == 0) i

/-- Format A: `b`, `c` unused (R81). -/
def formatA (w : CommandWord) (f : BitVec 8 → Instr) : Except DecodeError Instr :=
  unusedZero (fieldB w == 0 && fieldC w == 0) (f (fieldA w))

/-- Format C: `a`, `b` unused (R81). -/
def formatC (w : CommandWord) (f : BitVec 32 → Instr) : Except DecodeError Instr :=
  unusedZero (fieldA w == 0 && fieldB w == 0) (f (fieldC w))

/-- Format AC: `b` unused (R81). -/
def formatAC (w : CommandWord) (f : BitVec 8 → BitVec 32 → Instr) : Except DecodeError Instr :=
  unusedZero (fieldB w == 0) (f (fieldA w) (fieldC w))

/-- Format AB: `c` unused (R81). -/
def formatAB (w : CommandWord) (f : BitVec 8 → BitVec 16 → Instr) : Except DecodeError Instr :=
  unusedZero (fieldC w == 0) (f (fieldA w) (fieldB w))

/-- The operation a word stands for (30_encoding.md R84, R81, R82), or why it stands for none. -/
def decode (w : CommandWord) : Except DecodeError Instr :=
  match (fieldOp w).toNat with
  | 0x01 => formatAC w .loadcfg
  | 0x02 => formatZ w .validate
  | 0x03 => formatA w .bind
  | 0x04 => formatC w .configureDivider
  | 0x05 => formatZ w .init
  | 0x06 => formatZ w .start
  | 0x07 => formatZ w .shutdown
  | 0x08 => formatZ w .reset
  | 0x09 => formatA w .statusRead
  | 0x10 => formatZ w .tick
  | 0x11 => formatZ w .select
  | 0x12 => formatZ w .shiftDone
  | 0x13 => formatZ w .latchDone
  | 0x14 => formatZ w .blankDone
  | 0x18 => formatAB w .emit
  | 0x19 => formatC w .startPulseTrain
  | 0x1A => formatA w .onCycleComplete
  | 0x20 => formatAB w .getActiveRowPlane
  | 0x21 => formatZ w .swapBuffers
  | 0x22 => .ok (.fbWrite (fieldA w) (fieldB w) (fieldCHigh w) (fieldCLow w))
  | _ => .error .reservedOpcode

/-- The word with the given fields (R80). -/
def pack (op a : BitVec 8) (b : BitVec 16) (c : BitVec 32) : CommandWord := op ++ a ++ b ++ c

/-- The word of an operation (R81, R82, R84): unused fields are 0. -/
def encode : Instr → CommandWord
  | .loadcfg reg val => pack 0x01#8 reg 0 val
  | .validate => pack 0x02#8 0 0 0
  | .bind role => pack 0x03#8 role 0 0
  | .configureDivider div => pack 0x04#8 0 0 div
  | .init => pack 0x05#8 0 0 0
  | .start => pack 0x06#8 0 0 0
  | .shutdown => pack 0x07#8 0 0 0
  | .reset => pack 0x08#8 0 0 0
  | .statusRead reg => pack 0x09#8 reg 0 0
  | .tick => pack 0x10#8 0 0 0
  | .select => pack 0x11#8 0 0 0
  | .shiftDone => pack 0x12#8 0 0 0
  | .latchDone => pack 0x13#8 0 0 0
  | .blankDone => pack 0x14#8 0 0 0
  | .emit plane row => pack 0x18#8 plane row 0
  | .startPulseTrain count => pack 0x19#8 0 0 count
  | .onCycleComplete result => pack 0x1A#8 result 0 0
  | .getActiveRowPlane plane row => pack 0x20#8 plane row 0
  | .swapBuffers => pack 0x21#8 0 0 0
  | .fbWrite ch y x val => pack 0x22#8 ch y (x ++ val)

/-- The word whose bits are `w`, bit 0 the least significant, every bit from `nbits` up 0: a command
word is one 64-bit word and no byte order comes in (log 19). -/
def tableWord (nbits w : Nat) : CommandWord := BitVec.ofNat 64 (w % 2 ^ nbits)

/-- The operation the decoder reads from a word numbered as spec/opcode_table.json numbers it. -/
def decodeTableWord (nbits w : Nat) : Option Instr :=
  match decode (tableWord nbits w) with
  | .ok i => some i
  | .error _ => none

/-- The `mask` of an operation's row in spec/opcode_table.json: `op` and every field its format does
not use (30_encoding.md R84). -/
def tableMask : Instr → CommandWord
  | .loadcfg _ _ => 0xFF00FFFF00000000#64
  | .validate => 0xFFFFFFFFFFFFFFFF#64
  | .bind _ => 0xFF00FFFFFFFFFFFF#64
  | .configureDivider _ => 0xFFFFFFFF00000000#64
  | .init => 0xFFFFFFFFFFFFFFFF#64
  | .start => 0xFFFFFFFFFFFFFFFF#64
  | .shutdown => 0xFFFFFFFFFFFFFFFF#64
  | .reset => 0xFFFFFFFFFFFFFFFF#64
  | .statusRead _ => 0xFF00FFFFFFFFFFFF#64
  | .tick => 0xFFFFFFFFFFFFFFFF#64
  | .select => 0xFFFFFFFFFFFFFFFF#64
  | .shiftDone => 0xFFFFFFFFFFFFFFFF#64
  | .latchDone => 0xFFFFFFFFFFFFFFFF#64
  | .blankDone => 0xFFFFFFFFFFFFFFFF#64
  | .emit _ _ => 0xFF000000FFFFFFFF#64
  | .startPulseTrain _ => 0xFFFFFFFF00000000#64
  | .onCycleComplete _ => 0xFF00FFFFFFFFFFFF#64
  | .getActiveRowPlane _ _ => 0xFF000000FFFFFFFF#64
  | .swapBuffers => 0xFFFFFFFFFFFFFFFF#64
  | .fbWrite _ _ _ _ => 0xFF00000000000000#64

/-- The `match` of an operation's row in spec/opcode_table.json (30_encoding.md R84). -/
def tableMatch : Instr → CommandWord
  | .loadcfg _ _ => 0x0100000000000000#64
  | .validate => 0x0200000000000000#64
  | .bind _ => 0x0300000000000000#64
  | .configureDivider _ => 0x0400000000000000#64
  | .init => 0x0500000000000000#64
  | .start => 0x0600000000000000#64
  | .shutdown => 0x0700000000000000#64
  | .reset => 0x0800000000000000#64
  | .statusRead _ => 0x0900000000000000#64
  | .tick => 0x1000000000000000#64
  | .select => 0x1100000000000000#64
  | .shiftDone => 0x1200000000000000#64
  | .latchDone => 0x1300000000000000#64
  | .blankDone => 0x1400000000000000#64
  | .emit _ _ => 0x1800000000000000#64
  | .startPulseTrain _ => 0x1900000000000000#64
  | .onCycleComplete _ => 0x1A00000000000000#64
  | .getActiveRowPlane _ _ => 0x2000000000000000#64
  | .swapBuffers => 0x2100000000000000#64
  | .fbWrite _ _ _ _ => 0x2200000000000000#64

end Sys2Proof
end

