-- ==== Sys2Proof/Config.lean ====
section
/-! DEFINITION. The free values: what the spec leaves unspecified and treats as `any value`
(93_implementation_defined.md U1, U2), and what it calls undefined or gives no result for (logs 25,
26). They have no body, so nothing can be proved of what they are.
The block's parameters are no constants of this file: they are configuration registers (00_scope.md
R6) and stand in State. -/

namespace Sys2Proof

/-- The unspecified contents of the frame buffer (20_memory.md R62, U1): for the contents named by an
epoch, what the location with a key holds before anything is written there. The spec calls it a
draw; FREE VALUE (log 9). -/
opaque Config.fbUnspecified : (epoch : Nat) → (key : Nat) → BitVec 16

/-- The unspecified contents of `ROWBUF` (10_state.md R40, U2): for the contents named by a
generation, the word at a column that nothing has written. FREE VALUE (log 11). -/
opaque Config.rowbufUnspecified : (generation : Nat) → (column : Nat) → BitVec 6

/-- The row words of a frame buffer whose grid is not the one the registers describe: the word for the
contents named by an epoch, the grid asked for (rows, columns, depth), the buffer, and the row address,
plane and column. The spec gives no such read a result
(20_memory.md R61, R62); FREE VALUE (log 26). -/
opaque Config.gridUnspecified : (epoch : Nat) → (grid : Word × Word × Word) → (buf : Bool) →
  (place : Nat × Nat × Nat) → BitVec 6

/-- How many tu a duration in ns has while `BASE_CLOCK_MHZ = 0`, when `tu = 1/M` has no value (00_scope.md
R7). FREE VALUE (log 25). -/
opaque Config.tuUnspecified : (ns : Word) → Nat

/-- The budget of a transfer while `BASE_CLOCK_MHZ = 0`: "For `M = 0` the budget is undefined"
(40_configuration.md R101). FREE VALUE (log 25). -/
opaque Config.budgetUnspecified : (divider overheadNs : Word) → Nat

end Sys2Proof
end

