-- ==== Sys2Proof/Machine/State.lean ====
section
/-! DEFINITION. The state of the block (10_state.md R20) as plain data, its reset value (R42,
70_reset_and_hazards.md R216), and the ways a step can stop. -/

namespace Sys2Proof.Machine

/-- `MODE` (10_state.md R28). -/
inductive Mode where
  | reset
  | configured
  | running
  | stopped
  | faulted
  deriving DecidableEq, Repr

/-- `FSM_STATE` (10_state.md R30). -/
inductive FsmState where
  | idle
  | selectPlane
  | shifting
  | latching
  | blanking
  deriving DecidableEq, Repr

/-- `ERR_CODE` (10_state.md R29). Code 3 is never stored in the register. -/
inductive ErrCode where
  | noError
  | configurationError
  | bindingError
  | bufferUnavailableError
  | timingViolationError
  deriving DecidableEq, Repr

/-- `LAST_RESULT` (10_state.md R33). -/
inductive CycleResult where
  | noCycle
  | complete
  | skipped
  | aborted
  deriving DecidableEq, Repr

/-- The agents that issue operations (00_scope.md R5, 30_encoding.md R84). -/
inductive Agent where
  | host
  | producer
  | scheduler
  | sequencer
  | adapter
  deriving DecidableEq, Repr

/-- The configuration registers (10_state.md R21 to R27). -/
structure ConfigRegs where
  /-- `0x00`, L (R22). -/
  latchPulseWidthNs : Word
  /-- `0x01`, D (R22). -/
  latchToClockDelayNs : Word
  /-- `0x02`, K (R22). -/
  clockDivider : Word
  /-- `0x03`, M (R22). -/
  baseClockMhz : Word
  /-- `0x04`, V (R22). -/
  fixedOverheadNs : Word
  /-- `0x05`, N (R23). -/
  colorDepth : Word
  /-- `0x06`, H (R23). -/
  panelRows : Word
  /-- `0x07`, W (R23). -/
  rowPixels : Word
  /-- `0x08`, U (R23). -/
  onUnitNs : Word
  /-- `0x09` (R24). -/
  clockMode : Word
  /-- `0x10` to `0x29`, one entry per role (R26, R27). -/
  bind : Vector Word 26
  deriving DecidableEq, Repr

/-- `POS` (10_state.md R31): the pair the next tick will service, with its tick index. -/
structure Pos where
  row : BitVec 16
  tick : BitVec 16
  plane : BitVec 4
  deriving DecidableEq, Repr

/-- The logical outputs (10_state.md R38), one name per line. -/
inductive Line where
  | oe
  | lat
  | clk
  | data (i : Fin 6)
  | addr (i : Fin 16)
  deriving DecidableEq, Repr

/-- An event of `WAVE`: time in tu, output, value (10_state.md R41). -/
structure Event where
  time : Nat
  line : Line
  value : Bool
  deriving DecidableEq, Repr

/-- What the single timeline drives and measures: `PINS_ACTIVE` (10_state.md R34, R39), the output
registers (R38), `NOW` and `WAVE` (R41). -/
structure Bus where
  pinsActive : Bool
  oe : Bool
  lat : Bool
  clk : Bool
  data : BitVec 6
  addr : BitVec 16
  /-- `NOW`, in tu of the `BASE_CLOCK_MHZ` in force (log 13). -/
  now : Nat
  /-- `WAVE`, newest event first (log 18). -/
  wave : List Event
  deriving DecidableEq, Repr

/-- `ROWBUF` (10_state.md R40): the words that have been written; a word beyond them is unspecified
and named by the generation (log 11). -/
structure RowBuf where
  words : List (BitVec 6)
  generation : Nat
  deriving DecidableEq, Repr

/-- The shape `H x W x N` the frame buffer takes at a successful `INIT` (20_memory.md R62,
40_configuration.md R110). -/
structure Shape where
  rows : Word
  cols : Word
  depth : Word
  deriving DecidableEq, Repr

/-- The double frame buffer (20_memory.md R60): the locations written since its contents last became
unspecified, as (key, value) pairs with strictly rising keys (log 12); what any other location holds
is unspecified and named by the epoch (R62, log 9). -/
structure FrameBuffer where
  cells : List (Nat × BitVec 16)
  shape : Shape
  epoch : Nat
  deriving DecidableEq, Repr

/-- The environment's three inputs (00_scope.md R5, 10_state.md R20) as they stand before the next
step, durations in tu (log 3, log 13). An index beyond `stall` is a transfer that is not delayed. -/
structure EnvInputs where
  gap : Nat
  ready : Bool
  stall : List Nat
  deriving DecidableEq, Repr

/-- What may happen next (70_reset_and_hazards.md R232; log 1). -/
inductive Request where
  /-- An agent presents a command word. -/
  | op (agent : Agent) (word : CommandWord)
  /-- The environment presents new inputs. -/
  | environment (inputs : EnvInputs)
  /-- The hardware reset event (70_reset_and_hazards.md R215). -/
  | hardwareReset
  deriving DecidableEq, Repr

/-- The `status` of a response (30_encoding.md R88). -/
inductive Status where
  | ok
  | configurationError
  | bindingError
  | bufferUnavailableError
  | timingViolationError
  | refused
  deriving DecidableEq, Repr

/-- What the last operation answered. -/
inductive Reply where
  /-- Nothing: an internal step, or nothing executed yet (30_encoding.md R87). -/
  | silent
  /-- The response of a command (R88). -/
  | response (status : Status) (value : Word)
  /-- The pixel-bit data of `GET_ACTIVE_ROW_PLANE` (43_framebuffer.md R160). -/
  | rowPlane (words : List (BitVec 6))
  /-- The `CycleResult` of `EMIT` (42_sequencer.md R140). -/
  | cycleResult (result : CycleResult)
  deriving DecidableEq, Repr

/-- The state of the block, the environment's inputs, and the requests still to come. -/
structure State where
  /-- Configuration registers (10_state.md R21 to R27). -/
  cfg : ConfigRegs
  /-- `MODE` (R28). -/
  mode : Mode
  /-- `ERR_CODE` (R29). -/
  errCode : ErrCode
  /-- `ERR_INFO` (R29). -/
  errInfo : Word
  /-- `FSM_STATE` (R30). -/
  fsm : FsmState
  /-- `POS_ROW`, `POS_TICK`, `POS_PLANE` (R31). -/
  pos : Pos
  /-- `CUR_ROW` (R32). -/
  curRow : BitVec 16
  /-- `CUR_PLANE` (R32). -/
  curPlane : BitVec 4
  /-- `LAST_RESULT` (R33). -/
  lastResult : CycleResult
  /-- `ACTIVE_BUF` (R34, R35): true is buffer 1. -/
  activeBuf : Bool
  /-- `SWAP_PENDING` (R34, R36). -/
  swapPending : Bool
  /-- `SHUTDOWN_REQ` (R34, R36). -/
  shutdownReq : Bool
  /-- `TRAIN_BUSY` (R34). -/
  trainBusy : Bool
  /-- `DIV_CFG` (R37). -/
  divCfg : Word
  /-- `PINS_ACTIVE`, the output registers, `NOW`, `WAVE` (R34, R38, R39, R41). -/
  bus : Bus
  /-- `ROWBUF` (R40). -/
  rowbuf : RowBuf
  /-- The frame buffer (20_memory.md R60). -/
  fb : FrameBuffer
  /-- The environment's inputs; not state of the block (R20, log 3). -/
  env : EnvInputs
  /-- The requests still to come, the next one first; not state of the block (log 1). -/
  inbox : List Request
  /-- The agent whose operation is being executed; not state of the block (log 1). -/
  agent : Agent
  /-- What the last operation answered (30_encoding.md R88, log 14). -/
  reply : Reply
  deriving DecidableEq, Repr

/-- Faults of the model. There are none: the block "has no halt of its own" (70_reset_and_hazards.md
R232) and every error of 60_exceptions.md R185 is an entry the machine goes on from, so the type has
no constructor and no step can end in a fault. -/
inductive Fault where
  deriving DecidableEq, Repr

/-- Refusals of the model; not the block's own `REFUSED` response, which is a next state
(30_encoding.md R92). -/
inductive Refusal where
  /-- Raised by `exec` for an operation whose meaning is not written yet; no arm raises it. Safe: the
  run ends. -/
  | notModelled (mnemonic : String)
  deriving DecidableEq, Repr

/-- What one operation or step of this machine answers. -/
abbrev Result := Host.Outcome State Fault Refusal

/-- Every configuration register 0 (10_state.md R42). -/
def ConfigRegs.reset : ConfigRegs where
  latchPulseWidthNs := 0
  latchToClockDelayNs := 0
  clockDivider := 0
  baseClockMhz := 0
  fixedOverheadNs := 0
  colorDepth := 0
  panelRows := 0
  rowPixels := 0
  onUnitNs := 0
  clockMode := 0
  bind := Vector.replicate 26 0

/-- No line driven, all output registers 0, time 0, no event (10_state.md R42). -/
def Bus.reset : Bus where
  pinsActive := false
  oe := false
  lat := false
  clk := false
  data := 0
  addr := 0
  now := 0
  wave := []

/-- The state right after the first hardware reset (10_state.md R42, 70_reset_and_hazards.md R216). -/
def State.reset : State where
  cfg := .reset
  mode := .reset
  errCode := .noError
  errInfo := 0
  fsm := .idle
  pos := { row := 0, tick := 0, plane := 0 }
  curRow := 0
  curPlane := 0
  lastResult := .noCycle
  activeBuf := false
  swapPending := false
  shutdownReq := false
  trainBusy := false
  divCfg := 0
  bus := .reset
  rowbuf := { words := [], generation := 0 }
  fb := { cells := [], shape := { rows := 0, cols := 0, depth := 0 }, epoch := 0 }
  env := { gap := 0, ready := true, stall := [] }
  inbox := []
  agent := .host
  reply := .silent

end Sys2Proof.Machine
end

