-- ==== Sys2Proof/Machine/Operands.lean ====
section
/-! DEFINITION. What operations read and write as operands: the derived constants of 00_scope.md R6,
the fields of the binding table (10_state.md R26, R27), registers by number (R20), and who may issue
what (60_exceptions.md R201). -/

namespace Sys2Proof.Machine

/-! ## Derived constants (00_scope.md R6, R7); durations in tu, 1 ns = M tu -/

/-- `R = H/2`, the number of row addresses. -/
def ConfigRegs.rowAddresses (c : ConfigRegs) : Nat := c.panelRows.toNat / 2

/-- The least `A ≤ 16` with `2^A ≥ r`, for `r ≤ 65536`: how many exponents below 16 fall short. -/
def addressLinesFor (r : Nat) : Nat := (List.range 16).countP fun a => decide (2 ^ a < r)

/-- `A`, the number of address lines (40_configuration.md R112 (f)). -/
def ConfigRegs.addressLines (c : ConfigRegs) : Nat := addressLinesFor c.rowAddresses

/-- `X = W/32`, transfers per row. -/
def ConfigRegs.transfersPerRow (c : ConfigRegs) : Nat := c.rowPixels.toNat / 32

/-- A duration in ns as a number of tu: `ns·M` (00_scope.md R7). At `M = 0` a tu has no value and the
number is a free value (DESIGN CHOICE, log 25). -/
def ConfigRegs.durationTu (c : ConfigRegs) (ns : Word) : Nat :=
  if c.baseClockMhz = 0 then Config.tuUnspecified ns else ns.toNat * c.baseClockMhz.toNat

/-- `D` in tu. -/
def ConfigRegs.latchDelayTu (c : ConfigRegs) : Nat := c.durationTu c.latchToClockDelayNs

/-- `L` in tu. -/
def ConfigRegs.latchPulseTu (c : ConfigRegs) : Nat := c.durationTu c.latchPulseWidthNs

/-- `U` in tu. -/
def ConfigRegs.onTimeTu (c : ConfigRegs) : Nat := c.durationTu c.onUnitNs

/-- `V` in tu: the slack of a transfer (42_sequencer.md R146). -/
def ConfigRegs.slackTu (c : ConfigRegs) : Nat := c.durationTu c.fixedOverheadNs

/-- `B` in tu, `32000·K + V·M` (40_configuration.md R101). "For `M = 0` the budget is undefined": a free
value (log 25). -/
def ConfigRegs.budgetTu (c : ConfigRegs) : Nat :=
  if c.baseClockMhz = 0 then Config.budgetUnspecified c.clockDivider c.fixedOverheadNs
  else 32000 * c.clockDivider.toNat + c.slackTu

/-- Half a pixel period in tu for a divider: `T/2 = 500·K` (42_sequencer.md R142). R7 gives it in tu with
no `M`, so it is this number at `M = 0` too (log 25). -/
def halfPeriodTu (divider : Word) : Nat := 500 * divider.toNat

/-! ## The binding table (10_state.md R26, R27) -/

/-- `BIND[role]`; roles beyond 25 have no register. -/
def ConfigRegs.bindReg (c : ConfigRegs) (role : Nat) : Word := c.bind[role]?.getD 0

/-- `BIND[role].BOUND`, bit 31. -/
def ConfigRegs.bound (c : ConfigRegs) (role : Nat) : Bool := (c.bindReg role).getLsbD 31

/-- `BIND[role].LINE`, bits [15:0]. -/
def ConfigRegs.line (c : ConfigRegs) (role : Nat) : BitVec 16 := (c.bindReg role).extractLsb' 0 16

/-- `CLOCK_MODE.ALT`, bit 0 (R24). -/
def ConfigRegs.clockAlt (c : ConfigRegs) : Bool := c.clockMode.getLsbD 0

/-- `activeClockRole` (R25): role 2 is Clock, role 3 is ClockAlt. -/
def ConfigRegs.activeClockRole (c : ConfigRegs) : Nat := if c.clockAlt then 3 else 2

/-- The colour-bit roles (R26). -/
def colorRoles : List Nat := [4, 5, 6, 7, 8, 9]

/-- The required roles in ascending order (R26): 0, 1, the active clock role, 4 to 9, and the first
`A` address roles. -/
def ConfigRegs.requiredRoles (c : ConfigRegs) : List Nat :=
  [0, 1, c.activeClockRole] ++ colorRoles ++ List.range' 10 c.addressLines

/-! ## From logical outputs to lines (10_state.md R25, R26, R27) -/

/-- The role that carries a logical output (R26, third column): `CLK` is routed to the active clock role
(R25). -/
def ConfigRegs.roleOf (c : ConfigRegs) : Line → Nat
  | .oe => 0
  | .lat => 1
  | .clk => c.activeClockRole
  | .data i => 4 + i.val
  | .addr i => 10 + i.val

/-- The logical output a role carries (R26); the clock role that is not active drives nothing (R25). -/
def ConfigRegs.outputOf (c : ConfigRegs) (role : Nat) : Option Line :=
  if role = 0 then some .oe
  else if role = 1 then some .lat
  else if role = 2 then (if c.clockAlt then none else some .clk)
  else if role = 3 then (if c.clockAlt then some .clk else none)
  else if h : 4 ≤ role ∧ role < 10 then some (.data ⟨role - 4, by omega⟩)
  else if h : 10 ≤ role ∧ role < 26 then some (.addr ⟨role - 10, by omega⟩)
  else none

/-- The physical line a logical output appears on: `BIND[role].LINE` of its role (R27); none while the
role has no assignment. -/
def ConfigRegs.lineOf (c : ConfigRegs) (l : Line) : Option (BitVec 16) :=
  if c.bound (c.roleOf l) then some (c.line (c.roleOf l)) else none

/-- The logical output that appears on a physical line: that of the lowest required role (R26) bound to
it. A valid binding has at most one (40_configuration.md R106). -/
def ConfigRegs.outputOn (c : ConfigRegs) (line : BitVec 16) : Option Line :=
  (c.requiredRoles.find? fun role => c.bound role && c.line role == line).bind c.outputOf

/-! ## Codes (30_encoding.md R86) -/

/-- `MODE` values (10_state.md R28). -/
def Mode.code : Mode → Nat
  | .reset => 0
  | .configured => 1
  | .running => 2
  | .stopped => 3
  | .faulted => 4

/-- `FSM_STATE` values (10_state.md R30). -/
def FsmState.code : FsmState → Nat
  | .idle => 0
  | .selectPlane => 1
  | .shifting => 2
  | .latching => 3
  | .blanking => 4

/-- `ERR_CODE` values (10_state.md R29). -/
def ErrCode.code : ErrCode → Nat
  | .noError => 0
  | .configurationError => 1
  | .bindingError => 2
  | .bufferUnavailableError => 3
  | .timingViolationError => 4

/-- `LAST_RESULT` values (10_state.md R33). -/
def CycleResult.code : CycleResult → Nat
  | .noCycle => 0
  | .complete => 1
  | .skipped => 2
  | .aborted => 3

/-- `status` values (30_encoding.md R88); 5 and 6 are never returned. -/
def Status.code : Status → Nat
  | .ok => 0
  | .configurationError => 1
  | .bindingError => 2
  | .bufferUnavailableError => 3
  | .timingViolationError => 4
  | .refused => 7

/-- The result operand of `ON_CYCLE_COMPLETE` (30_encoding.md R82, R90). -/
def resultOperand (a : BitVec 8) : Option CycleResult :=
  if a = 1#8 then some .complete else if a = 3#8 then some .aborted else none

/-! ## Registers by number (10_state.md R20 to R39) -/

/-- The bit `i` of a register, set when `v` is. -/
def bitAt (v : Bool) (i : Nat) : Word := if v then BitVec.twoPow 32 i else 0

/-- `FLAGS` (10_state.md R34). -/
def State.flags (s : State) : Word :=
  bitAt s.activeBuf 0 ||| bitAt s.swapPending 1 ||| bitAt s.shutdownReq 2
    ||| bitAt s.bus.pinsActive 3 ||| bitAt s.trainBusy 4

/-- `OUT` (10_state.md R38). -/
def Bus.out (b : Bus) : Word :=
  bitAt b.oe 0 ||| bitAt b.lat 1 ||| bitAt b.clk 2
    ||| (b.data.setWidth 32 <<< 3) ||| (b.addr.setWidth 32 <<< 16)

/-- A configuration register by number (10_state.md R22, R23, R24, R27). -/
def ConfigRegs.read (c : ConfigRegs) (n : Nat) : Option Word :=
  match n with
  | 0x00 => some c.latchPulseWidthNs
  | 0x01 => some c.latchToClockDelayNs
  | 0x02 => some c.clockDivider
  | 0x03 => some c.baseClockMhz
  | 0x04 => some c.fixedOverheadNs
  | 0x05 => some c.colorDepth
  | 0x06 => some c.panelRows
  | 0x07 => some c.rowPixels
  | 0x08 => some c.onUnitNs
  | 0x09 => some c.clockMode
  | _ => if 0x10 ≤ n ∧ n ≤ 0x29 then some (c.bindReg (n - 0x10)) else none

/-- Writes the configuration register with a number, where there is one (44_lifecycle.md R170). -/
def ConfigRegs.write (c : ConfigRegs) (n : Nat) (v : Word) : Option ConfigRegs :=
  match n with
  | 0x00 => some { c with latchPulseWidthNs := v }
  | 0x01 => some { c with latchToClockDelayNs := v }
  | 0x02 => some { c with clockDivider := v }
  | 0x03 => some { c with baseClockMhz := v }
  | 0x04 => some { c with fixedOverheadNs := v }
  | 0x05 => some { c with colorDepth := v }
  | 0x06 => some { c with panelRows := v }
  | 0x07 => some { c with rowPixels := v }
  | 0x08 => some { c with onUnitNs := v }
  | 0x09 => some { c with clockMode := v }
  | _ =>
    if 0x10 ≤ n ∧ n ≤ 0x29 then some { c with bind := c.bind.setIfInBounds (n - 0x10) v } else none

/-- `reg[n]`, the 32-bit view of a register (10_state.md R20); none for a reserved number. -/
def State.register (s : State) (n : Nat) : Option Word :=
  match n with
  | 0x40 => some (BitVec.ofNat 32 s.mode.code)
  | 0x41 => some (BitVec.ofNat 32 s.fsm.code)
  | 0x42 => some (s.pos.row.setWidth 32)
  | 0x43 => some (s.pos.tick.setWidth 32)
  | 0x44 => some (s.pos.plane.setWidth 32)
  | 0x45 => some s.flags
  | 0x46 => some (BitVec.ofNat 32 s.errCode.code)
  | 0x47 => some s.errInfo
  | 0x48 => some (BitVec.ofNat 32 s.lastResult.code)
  | 0x49 => some s.divCfg
  | 0x4A => some s.bus.out
  | 0x4B => some (s.curRow.setWidth 32)
  | 0x4C => some (s.curPlane.setWidth 32)
  | _ => s.cfg.read n

/-! ## Who may issue what, and when -/

/-- The agents of an operation's row (30_encoding.md R84, 60_exceptions.md R201). -/
def agentsOf : Instr → List Agent
  | .loadcfg _ _ => [.host]
  | .validate => [.host]
  | .bind _ => [.host]
  | .configureDivider _ => [.adapter]
  | .init => [.host]
  | .start => [.host]
  | .shutdown => [.host]
  | .reset => [.host]
  | .statusRead _ => [.host, .producer]
  | .tick => [.scheduler]
  | .select => [.scheduler]
  | .shiftDone => [.scheduler]
  | .latchDone => [.scheduler]
  | .blankDone => [.scheduler]
  | .emit _ _ => [.sequencer]
  | .startPulseTrain _ => [.adapter]
  | .onCycleComplete _ => [.adapter]
  | .getActiveRowPlane _ _ => [.scheduler]
  | .swapBuffers => [.producer]
  | .fbWrite _ _ _ _ => [.producer]

/-- Every mode. -/
def anyMode : List Mode := [.reset, .configured, .running, .stopped, .faulted]

/-- The modes in which an operation is allowed (60_exceptions.md R201). The five operations that stand
inside a step have no mode of their own there (log 5). -/
def modesOf : Instr → List Mode
  | .loadcfg _ _ => [.reset]
  | .validate => anyMode
  | .bind _ => anyMode
  | .configureDivider _ => anyMode
  | .init => [.reset]
  | .start => [.configured, .stopped]
  | .shutdown => [.running]
  | .reset => [.reset, .configured, .stopped, .faulted]
  | .statusRead _ => anyMode
  | .tick => [.running]
  | .select => [.running]
  | .shiftDone => [.running]
  | .latchDone => [.running]
  | .blankDone => [.running]
  | .emit _ _ => anyMode
  | .startPulseTrain _ => anyMode
  | .onCycleComplete _ => anyMode
  | .getActiveRowPlane _ _ => anyMode
  | .swapBuffers => [.configured, .running, .stopped]
  | .fbWrite _ _ _ _ => [.configured, .running, .stopped]

/-- The agent that presents an operation placed by `State.withFetchWord` (log 2): the first of its
row. -/
def issuer (i : Instr) : Agent := (agentsOf i).headD .host

/-- The operation is one that occurs only inside a step (30_encoding.md R85). -/
def insideAStep : Instr → Bool
  | .loadcfg _ _ => false
  | .validate => false
  | .bind _ => false
  | .configureDivider _ => true
  | .init => false
  | .start => false
  | .shutdown => false
  | .reset => false
  | .statusRead _ => false
  | .tick => false
  | .select => false
  | .shiftDone => false
  | .latchDone => false
  | .blankDone => false
  | .emit _ _ => true
  | .startPulseTrain _ => true
  | .onCycleComplete _ => true
  | .getActiveRowPlane _ _ => true
  | .swapBuffers => false
  | .fbWrite _ _ _ _ => false

end Sys2Proof.Machine
end

