-- ==== Sys2Proof/Machine/Flags.lean ====
section
/-! DEFINITION. The condition masks: `validateMask`, `geometryMask`, `clockPairMask`,
`distinctMask`, `bindingMask` (40_configuration.md R102 to R108) and the `ERR_INFO` of a timing
violation (60_exceptions.md R189). The block has no arithmetic condition codes (10_state.md R34). -/

namespace Sys2Proof.Machine

/-- `validateMask()` (40_configuration.md R102). -/
def validateMask (c : ConfigRegs) : Word :=
  bitAt (c.latchPulseWidthNs.toNat < 20 || 150 < c.latchPulseWidthNs.toNat) 0
    ||| bitAt (c.latchToClockDelayNs.toNat == 0) 1
    ||| bitAt (c.clockDivider.toNat % 2 == 1) 2
    ||| bitAt (c.clockDivider.toNat < 20) 3
    ||| bitAt (c.fixedOverheadNs.toNat == 0) 4
    ||| bitAt (c.baseClockMhz.toNat == 0) 5

/-- `geometryMask()` (40_configuration.md R108). -/
def geometryMask (c : ConfigRegs) : Word :=
  bitAt (c.colorDepth.toNat < 1 || 16 < c.colorDepth.toNat) 6
    ||| bitAt (c.panelRows.toNat % 2 == 1 || c.panelRows.toNat < 2 || 65536 < c.panelRows.toNat) 7
    ||| bitAt (c.rowPixels.toNat % 32 != 0 || c.rowPixels.toNat < 32 || 65504 < c.rowPixels.toNat) 8
    ||| bitAt (c.onUnitNs.toNat == 0) 9
    ||| bitAt (2 ≤ c.clockMode.toNat) 10

/-- `clockPairMask()` (40_configuration.md R105). -/
def clockPairMask (c : ConfigRegs) : Word :=
  bitAt (c.bound 2 && c.bound 3) 1
    ||| bitAt (!c.bound 2 && !c.bound 3) 2
    ||| bitAt (c.bound 2 != c.bound 3 && c.bound 3 != c.clockAlt) 3

/-- Two different roles, both bound, on one line (40_configuration.md R106). -/
def sharedLine (c : ConfigRegs) (i j : Nat) : Bool :=
  i != j && c.bound i && c.bound j && c.line i == c.line j

/-- `distinctMask()` (40_configuration.md R106). -/
def distinctMask (c : ConfigRegs) : Word :=
  bitAt (colorRoles.any fun i => colorRoles.any fun j => sharedLine c i j) 4
    ||| bitAt (c.requiredRoles.any fun i => c.requiredRoles.any fun j =>
          !(colorRoles.contains i && colorRoles.contains j) && sharedLine c i j) 5

/-- Bit 0 with the role number in bits [15:8] (40_configuration.md R104, R107). -/
def unboundRole (role : Nat) : Word := BitVec.ofNat 32 (1 + 256 * role)

/-- The lowest required role that is not bound (40_configuration.md R107). -/
def lowestUnbound (c : ConfigRegs) : Option Nat := c.requiredRoles.find? fun r => !c.bound r

/-- `bindingMask()` (40_configuration.md R107). -/
def bindingMask (c : ConfigRegs) : Word :=
  clockPairMask c ||| distinctMask c ||| (lowestUnbound c).elim 0 unboundRole

/-- The mask `BIND role` answers with (40_configuration.md R104). -/
def bindMask (c : ConfigRegs) (role : Nat) : Word :=
  clockPairMask c ||| (if c.bound role then 0 else unboundRole role)

/-- `ERR_INFO` of an overrun in transfer `k`: bit 0, and `k` in bits [31:16] (60_exceptions.md
R189). -/
def overrunInfo (k : Nat) : Word := BitVec.ofNat 32 (1 + 65536 * k)

/-- `ERR_INFO` of an overlapping request: bit 1 (60_exceptions.md R189). -/
def overlapInfo : Word := 2

end Sys2Proof.Machine
end

