-- ==== Sys2Proof/Machine/Schedule.lean ====
section
/-! DEFINITION. The weighted round-robin: when a plane is due, the slot sequence, the successor of a
position (41_scheduler.md R123, R124, R126). -/

namespace Sys2Proof.Machine

/-- Ticks of a row-scan period, `2^(N−1)` (41_scheduler.md R123). -/
def ticksPerRow (depth : Nat) : Nat := 2 ^ (depth - 1)

/-- `due(p, t)` (41_scheduler.md R123). -/
def planeDue (depth p t : Nat) : Bool := t % 2 ^ (depth - 1 - p) == 0

/-- `min(tz(t), fuel)` for `t ≥ 1`: trailing zero bits of `t`, counted up to `fuel` (00_scope.md R7). -/
def trailingZeros : (fuel : Nat) → (t : Nat) → Nat
  | 0, _ => 0
  | fuel + 1, t => if t % 2 = 1 then 0 else trailingZeros fuel (t / 2) + 1

/-- `first(t)`, the lowest plane due at `t` (41_scheduler.md R123). -/
def firstPlane (depth t : Nat) : Nat :=
  if t = 0 then 0 else depth - 1 - trailingZeros (depth - 1) t

/-- The planes serviced at tick `t`, ascending: `first(t) .. N−1` (41_scheduler.md R124). -/
def planesAt (depth t : Nat) : List Nat := List.range' (firstPlane depth t) (depth - firstPlane depth t)

/-- `slots`, the plane of each slot of a row-scan period (41_scheduler.md R124). -/
def slots (depth : Nat) : List Nat := (List.range (ticksPerRow depth)).flatMap (planesAt depth)

/-- `succ` (41_scheduler.md R126), for `R` row addresses and `N` planes. -/
def Pos.succ (rows depth : Nat) (p : Pos) : Pos :=
  if p.plane.toNat + 1 < depth then { p with plane := p.plane + 1 }
  else
    let tick := (p.tick.toNat + 1) % ticksPerRow depth
    let row := if tick = 0 then (p.row.toNat + 1) % rows else p.row.toNat
    { row := BitVec.ofNat 16 row
      tick := BitVec.ofNat 16 tick
      plane := BitVec.ofNat 4 (firstPlane depth tick) }

/-- The position `(0, 0, 0)`, the frame boundary (41_scheduler.md R127). -/
def Pos.origin : Pos where
  row := 0
  tick := 0
  plane := 0

end Sys2Proof.Machine
end

