-- ==== Sys2Proof/Machine/Ops.lean ====
section
/-! DEFINITION. The named operations the meanings share: time and lines (00_scope.md R8), the
waveform phases (42_sequencer.md R141 to R152), the frame buffer (20_memory.md R61 to R63), answering
a command (30_encoding.md R88, R92), error entry (60_exceptions.md R192, R193), and reset
(10_state.md R42, 70_reset_and_hazards.md R215), which is the only return (R195). -/

namespace Sys2Proof.Machine

/-! ## Time and lines -/

/-- A bit vector with one bit replaced. -/
def setBit {w : Nat} (v : BitVec w) (i : Nat) (x : Bool) : BitVec w :=
  if x then v ||| BitVec.twoPow w i else v &&& ~~~(BitVec.twoPow w i)

/-- `advance(d)` (00_scope.md R8 (f)). -/
def Bus.advance (d : Nat) (b : Bus) : Bus := { b with now := b.now + d }

/-- The value last driven on a line (10_state.md R38). -/
def Bus.level (b : Bus) : Line → Bool
  | .oe => b.oe
  | .lat => b.lat
  | .clk => b.clk
  | .data i => b.data.getLsbD i
  | .addr i => b.addr.getLsbD i

/-- What the block drives on a physical line: the value of the logical output that appears there
(10_state.md R27); none while the block drives no line (R39) or no output appears on it (R25). -/
def State.lineLevel (s : State) (line : BitVec 16) : Option Bool :=
  if s.bus.pinsActive then (s.cfg.outputOn line).map s.bus.level else none

/-- Sets the output register of a line. -/
def Bus.setLevel (l : Line) (v : Bool) (b : Bus) : Bus :=
  match l with
  | .oe => { b with oe := v }
  | .lat => { b with lat := v }
  | .clk => { b with clk := v }
  | .data i => { b with data := setBit b.data i v }
  | .addr i => { b with addr := setBit b.addr i v }

/-- Appends the event to `WAVE`, while `PINS_ACTIVE` is 1 (10_state.md R39, R41). -/
def Bus.record (l : Line) (v : Bool) (b : Bus) : Bus :=
  if b.pinsActive then { b with wave := { time := b.now, line := l, value := v } :: b.wave } else b

/-- `drive` where a rule says that an idempotent drive is recorded (00_scope.md R8 (e)). -/
def Bus.driveRecorded (l : Line) (v : Bool) (b : Bus) : Bus := (b.setLevel l v).record l v

/-- `drive`: a drive that does not change the value appends nothing (00_scope.md R8 (e)). -/
def Bus.drive (l : Line) (v : Bool) (b : Bus) : Bus :=
  if b.level l = v then b else b.driveRecorded l v

/-- The colour-bit lines in ascending order. -/
def dataLines : List (Fin 6) := [0, 1, 2, 3, 4, 5]

/-- The first `count` address lines in ascending order. -/
def addrLines (count : Nat) : List (Fin 16) :=
  [0, 1, 2, 3, 4, 5, 6, 7, 8, 9, 10, 11, 12, 13, 14, 15].take count

/-- Drives the six colour-bit lines, ascending (42_sequencer.md R143). -/
def Bus.driveData (word : BitVec 6) (b : Bus) : Bus :=
  dataLines.foldl (fun b i => b.drive (.data i) (word.getLsbD i)) b

/-- Drives the address lines with a row address in binary, ascending (42_sequencer.md R141). -/
def Bus.driveAddr (lines : Nat) (row : BitVec 16) (b : Bus) : Bus :=
  (addrLines lines).foldl (fun b i => b.drive (.addr i) (row.getLsbD i)) b

/-- The safe levels of fatal entry (60_exceptions.md R192): `OE`, `LAT`, `CLK` to 0. -/
def Bus.safeLevels (b : Bus) : Bus := ((b.drive .oe false).drive .lat false).drive .clk false

/-- `START`'s first activation of the pins: every line driven to 0, recorded even though unchanged, in
the order of 44_lifecycle.md R173. -/
def Bus.activatePins (lines : Nat) (b : Bus) : Bus :=
  let b := { b with pinsActive := true }
  let b := ((b.driveRecorded .oe false).driveRecorded .lat false).driveRecorded .clk false
  let b := dataLines.foldl (fun b i => b.driveRecorded (.data i) false) b
  (addrLines lines).foldl (fun b i => b.driveRecorded (.addr i) false) b

/-! ## The phases of a cycle (42_sequencer.md R140) -/

/-- Phase 1: blank, then set the address (R141). -/
def Bus.blankThenAddress (lines : Nat) (row : BitVec 16) (b : Bus) : Bus :=
  (b.drive .oe false).driveAddr lines row

/-- One pixel (R143): the data lines change while `CLK` is 0, then a low half and a high half. -/
def Bus.pixel (half : Nat) (word : BitVec 6) (b : Bus) : Bus :=
  ((((b.driveData word).advance half).drive .clk true).advance half).drive .clk false

/-- The pixels of some columns, in the order given (R144: ascending). -/
def Bus.pixels (half : Nat) (word : Nat → BitVec 6) (columns : List Nat) (b : Bus) : Bus :=
  columns.foldl (fun b x => b.pixel half (word x)) b

/-- What a pulse train needs to know: half a pixel period, the slack and the budget of a transfer, in
tu. -/
structure TrainTiming where
  half : Nat
  slack : Nat
  budget : Nat
  deriving DecidableEq, Repr

/-- How a pulse train ends: shift complete (R147), or a transfer has overrun its budget (R146). -/
inductive TrainOutcome where
  | complete (bus : Bus)
  | overrun (transfer : Nat) (bus : Bus)
  deriving DecidableEq, Repr

/-- The columns of transfer `k` of an `n`-pixel train: `32k` to `32k + 31`, and no column from `n` up
(R145; the last clause is log 7). -/
def transferColumns (n k : Nat) : List Nat := List.range' (32 * k) (min 32 (n - 32 * k))

/-- Transfers `k`, `k + 1`, … as many as `fuel` says, of an `n`-pixel train (R146, R148): a transfer
whose stall exceeds the slack runs to its deadline with nothing driven and overruns. -/
def Bus.transfers (t : TrainTiming) (word : Nat → BitVec 6) (stall : Nat → Nat) (n : Nat) :
    (fuel : Nat) → (k : Nat) → Bus → TrainOutcome
  | 0, _, b => .complete b
  | fuel + 1, k, b =>
    if stall k ≤ t.slack then
      Bus.transfers t word stall n fuel (k + 1)
        ((b.advance (stall k)).pixels t.half word (transferColumns n k))
    else .overrun k (b.advance t.budget)

/-- The pulse train of `n` pixels (R148): one transfer for each 32 pixels begun. -/
def Bus.pulseTrain (t : TrainTiming) (word : Nat → BitVec 6) (stall : Nat → Nat) (n : Nat) (b : Bus) :
    TrainOutcome :=
  b.transfers t word stall n ((n + 31) / 32) 0

/-- Phases 3, 4 and 5a: the latch delay, the latch pulse, the output on (R149, R150, R151). -/
def Bus.latchAndShow (delay width : Nat) (b : Bus) : Bus :=
  ((((b.advance delay).drive .lat true).advance width).drive .lat false).drive .oe true

/-- Phase 5b: the on-time, then the output off (R152). -/
def Bus.onTimeThenBlank (onTime : Nat) (b : Bus) : Bus := (b.advance onTime).drive .oe false

/-! ## ROWBUF and the environment -/

/-- `ROWBUF[x]` (10_state.md R40); a word that is not written is unspecified (log 11). -/
def RowBuf.word (r : RowBuf) (x : Nat) : BitVec 6 :=
  r.words[x]?.getD (Config.rowbufUnspecified r.generation x)

/-- `stall[k]` in tu (42_sequencer.md R146, log 3). -/
def EnvInputs.stallOf (e : EnvInputs) (k : Nat) : Nat := e.stall[k]?.getD 0

/-- The timing of the pulse train (42_sequencer.md R142, R146, R148): the train runs at the
programmed divider `DIV_CFG`, the budget is that of the registers (log 16). A train asked for on its own
before `INIT` may run at `M = 0`; its slack and its budget are then free values (log 25). -/
def State.trainTiming (s : State) : TrainTiming where
  half := halfPeriodTu s.divCfg
  slack := s.cfg.slackTu
  budget := s.cfg.budgetTu

/-! ## The frame buffer (20_memory.md) -/

/-- The channels of a pixel, R = 0, G = 1, B = 2 (20_memory.md R60). -/
inductive Channel where
  | red
  | green
  | blue
  deriving DecidableEq, Repr

/-- The channel of an operand (30_encoding.md R82, R90). -/
def channelOperand (a : BitVec 8) : Option Channel :=
  if a = 0#8 then some .red else if a = 1#8 then some .green else if a = 2#8 then some .blue else none

/-- Channel numbers (20_memory.md R60). -/
def Channel.number : Channel → Nat
  | .red => 0
  | .green => 1
  | .blue => 2

/-- The key of location `(b, y, x, c)` for rows and columns below 65536: one key for each location
(log 12). -/
def locationKey (buf : Bool) (y x : Nat) (c : Channel) : Nat :=
  ((buf.toNat * 65536 + y) * 65536 + x) * 4 + c.number

/-- The value written at a key, if one has been. -/
def cellAt (cells : List (Nat × BitVec 16)) (key : Nat) : Option (BitVec 16) :=
  match cells with
  | [] => none
  | (k, v) :: rest => if k = key then some v else cellAt rest key

/-- Writes a key, keeping the keys strictly rising. -/
def writeCell (cells : List (Nat × BitVec 16)) (key : Nat) (v : BitVec 16) : List (Nat × BitVec 16) :=
  match cells with
  | [] => [(key, v)]
  | (k, u) :: rest =>
    if key < k then (key, v) :: (k, u) :: rest
    else if key = k then (key, v) :: rest
    else (k, u) :: writeCell rest key v

/-- The canonical form: strictly rising keys (log 12). A location that has been written stays listed
whatever its value, since what an unlisted location holds is not known. -/
abbrev FrameBuffer.wf (f : FrameBuffer) : Prop := f.cells.Pairwise fun p q => p.1 < q.1

/-- The low `depth` bits of a channel value (20_memory.md R61). -/
def lowBits (depth : Nat) (v : BitVec 16) : BitVec 16 := BitVec.ofNat 16 (v.toNat % 2 ^ depth)

/-- `FbRead(b, y, x, c)`: the `N`-bit value at a location (20_memory.md R61); where nothing has been
written, the unspecified contents of the epoch (R62, log 9). -/
def FrameBuffer.read (f : FrameBuffer) (depth : Nat) (buf : Bool) (y x : Nat) (c : Channel) : BitVec 16 :=
  let key := locationKey buf y x c
  lowBits depth ((cellAt f.cells key).getD (Config.fbUnspecified f.epoch key))

/-- `FbWrite(b, y, x, c, v)`: stores `v[N−1:0]` (20_memory.md R61). -/
def FrameBuffer.write (f : FrameBuffer) (depth : Nat) (buf : Bool) (y x : Nat) (c : Channel)
    (v : BitVec 16) : FrameBuffer :=
  { f with cells := writeCell f.cells (locationKey buf y x c) (lowBits depth v) }

/-- `word(b, r, p, x)`: the six colour bits of a column (20_memory.md R63 (b)); `half` is `H/2`. It is
asked for only in the grid of the buffer (`FrameBuffer.columnWord`), whose depth is at most 16. -/
def FrameBuffer.pixelWord (f : FrameBuffer) (depth half : Nat) (buf : Bool) (r p x : Nat) : BitVec 6 :=
  let upper (c : Channel) : Bool := (f.read depth buf r x c).getLsbD p
  let lower (c : Channel) : Bool := (f.read depth buf (r + half) x c).getLsbD p
  BitVec.ofBoolListLE [upper .red, lower .red, upper .green, lower .green, upper .blue, lower .blue]

/-- The shape of the configuration (20_memory.md R60). -/
def ConfigRegs.shape (c : ConfigRegs) : Shape where
  rows := c.panelRows
  cols := c.rowPixels
  depth := c.colorDepth

/-- The word at a column, in the grid the registers describe. While the frame buffer has another grid,
which is so only outside the initialised modes, the spec states no result and the word is a free value
(DESIGN CHOICE, log 26); so no location beyond the buffer's own grid is ever read. -/
def FrameBuffer.columnWord (f : FrameBuffer) (c : ConfigRegs) (buf : Bool) (row plane x : Nat) : BitVec 6 :=
  if f.shape = c.shape then f.pixelWord c.colorDepth.toNat c.rowAddresses buf row plane x
  else Config.gridUnspecified f.epoch (c.panelRows, c.rowPixels, c.colorDepth) buf (row, plane, x)

/-- The words of a row address and plane for columns 0 to `W − 1` (43_framebuffer.md R160). -/
def FrameBuffer.rowPlane (f : FrameBuffer) (c : ConfigRegs) (buf : Bool) (row plane : Nat) :
    List (BitVec 6) :=
  (List.range c.rowPixels.toNat).map fun x => f.columnWord c buf row plane x

/-- What the frame buffer holds becomes unspecified, in a shape (20_memory.md R62). -/
def FrameBuffer.forget (f : FrameBuffer) (shape : Shape) : FrameBuffer where
  cells := []
  shape := shape
  epoch := f.epoch + 1

/-- The frame buffer takes a shape; a changed shape leaves every location unspecified (20_memory.md
R62, log 10). -/
def FrameBuffer.takeShape (f : FrameBuffer) (shape : Shape) : FrameBuffer :=
  if f.shape = shape then f else f.forget shape

/-! ## Answers -/

/-- The state after a command that answers with a response (30_encoding.md R88). -/
def State.respond (s : State) (status : Status) (value : Word) : State :=
  { s with reply := .response status value }

/-- The state after an operation that answers nothing (30_encoding.md R87). -/
def State.quiet (s : State) : State := { s with reply := .silent }

/-- The state after a refused command: nothing changes, the response is status 7 and value 0
(30_encoding.md R92). -/
def State.refuse (s : State) : State := s.respond .refused 0

/-- The operation goes on when its agent may issue it and the mode allows it; else it is refused
(30_encoding.md R92, 60_exceptions.md R201). -/
def State.gate (s : State) (agents : List Agent) (modes : List Mode) (go : State) : Result :=
  if agents.contains s.agent && modes.contains s.mode then .next go else .next s.refuse

/-- An internal step goes on for the scheduler, in `Running` and in its FSM state (60_exceptions.md
R201, 41_scheduler.md R120); else it is refused (log 8). -/
def State.stepGate (s : State) (fsm : FsmState) (go : State) : Result :=
  s.gate [.scheduler] [.running] (if s.fsm = fsm then go else s.refuse)

/-! ## Error entry and reset -/

/-- The errors that are fatal (60_exceptions.md R185). -/
inductive FatalError where
  | configuration
  | binding
  | timingViolation
  deriving DecidableEq, Repr

/-- `code(E)` (60_exceptions.md R185). -/
def FatalError.errCode : FatalError → ErrCode
  | .configuration => .configurationError
  | .binding => .bindingError
  | .timingViolation => .timingViolationError

/-- First error wins (60_exceptions.md R196). -/
def State.recordError (s : State) (e : FatalError) (info : Word) : State :=
  if s.errCode = .noError then { s with errCode := e.errCode, errInfo := info } else s

/-- `ON_CYCLE_COMPLETE(result)` as a step performs it (42_sequencer.md R152). -/
def State.cycleComplete (s : State) (result : CycleResult) : State := { s with lastResult := result }

/-- `CONFIGURE_DIVIDER(d)` as `INIT` performs it (40_configuration.md R109). -/
def State.programDivider (s : State) (d : Word) : State := { s with divCfg := d }

/-- What a timing violation does to the timeline (60_exceptions.md R192): the train ends, the lines go
to their safe levels, the cycle is `Aborted`. -/
def State.haltOutput (s : State) : State :=
  State.cycleComplete { s with trainBusy := false, bus := s.bus.safeLevels } .aborted

/-- `fatalEntry(E, info)` (60_exceptions.md R192), in its order. The caller sets the answer. -/
def State.fatalEntry (s : State) (e : FatalError) (info : Word) : State :=
  let s := s.recordError e info
  let s := match e with
    | .configuration => s
    | .binding => s
    | .timingViolation => s.haltOutput
  { s with fsm := .idle, mode := .faulted }

/-- `POS <- succ(POS)` (41_scheduler.md R126). -/
def State.advancePos (s : State) : State :=
  { s with pos := s.pos.succ s.cfg.rowAddresses s.cfg.colorDepth.toNat }

/-- Recoverable entry, for `BufferUnavailableError` (60_exceptions.md R193). -/
def State.skipCycle (s : State) : State :=
  { (State.cycleComplete s .skipped).advancePos with fsm := .idle }

/-- Every register of 10_state.md R42 to its reset value; the frame buffer, `NOW` and `WAVE` are not
registers. `ROWBUF` becomes unspecified (R42). -/
def State.resetRegisters (s : State) : State :=
  { State.reset with
    bus := { Bus.reset with now := s.bus.now, wave := s.bus.wave }
    rowbuf := { words := [], generation := s.rowbuf.generation + 1 }
    fb := s.fb
    env := s.env
    inbox := s.inbox
    agent := s.agent }

/-- The hardware reset event (70_reset_and_hazards.md R215): the registers, and the frame buffer's
contents become unspecified. It answers nothing. -/
def State.hardwareReset (s : State) : State :=
  { s.resetRegisters with fb := s.fb.forget State.reset.fb.shape }

/-! ## The pulse train on the state -/

/-- `START_PULSE_TRAIN(n)` (42_sequencer.md R148), and then `done` when no transfer overran: an
overlapping request and an overrun are timing violations (R153, R146); `TRAIN_BUSY` is set while it
runs and cleared at its end. -/
def State.pulseTrain (s : State) (n : Nat) (done : State → State) (aborted : State → State) : State :=
  if s.trainBusy then aborted (s.fatalEntry .timingViolation overlapInfo)
  else
    let s := { s with trainBusy := true }
    match s.bus.pulseTrain s.trainTiming s.rowbuf.word s.env.stallOf n with
    | .complete bus => done { s with bus := bus, trainBusy := false }
    | .overrun k bus => aborted (State.fatalEntry { s with bus := bus } .timingViolation (overrunInfo k))

end Sys2Proof.Machine
end

