-- ==== Sys2Proof/Machine/Buffers.lean ====
section
/-! DEFINITION. The Frame Buffer Interface (43_framebuffer.md): `GET_ACTIVE_ROW_PLANE`,
`SWAP_BUFFERS`, `FB_WRITE`. -/

namespace Sys2Proof.Machine

/-- `GET_ACTIVE_ROW_PLANE plane, row` (43_framebuffer.md R160), asked for on its own by the Scheduler
(log 5): the row's words are the answer, nothing is written. A row or plane out of range is reserved
(30_encoding.md R90). Before `INIT` the range is that of the registers as loaded, and the words are free
values unless they describe the buffer's grid (log 26). -/
def execGetActiveRowPlane (plane : BitVec 8) (row : BitVec 16) (s : State) : Result :=
  s.gate [.scheduler] anyMode
    (if s.cfg.rowAddresses ≤ row.toNat ∨ s.cfg.colorDepth.toNat ≤ plane.toNat then s.refuse
     else { s with reply := .rowPlane (s.fb.rowPlane s.cfg s.activeBuf row.toNat plane.toNat) })

/-- `SWAP_BUFFERS` (43_framebuffer.md R162): the request waits for the frame boundary. -/
def execSwapBuffers (s : State) : Result :=
  s.gate [.producer] [.configured, .running, .stopped]
    (State.respond { s with swapPending := true } .ok 0)

/-- `FB_WRITE ch, y, x, v` (43_framebuffer.md R164): one channel value of the inactive buffer. -/
def execFbWrite (ch : BitVec 8) (y x val : BitVec 16) (s : State) : Result :=
  s.gate [.producer] [.configured, .running, .stopped]
    (match channelOperand ch with
     | none => s.refuse
     | some c =>
       if s.cfg.panelRows.toNat ≤ y.toNat ∨ s.cfg.rowPixels.toNat ≤ x.toNat
           ∨ 2 ^ s.cfg.colorDepth.toNat ≤ val.toNat then s.refuse
       else if s.swapPending then s.refuse
       else
         State.respond
           { s with fb := s.fb.write s.cfg.colorDepth.toNat (!s.activeBuf) y.toNat x.toNat c val } .ok 0)

end Sys2Proof.Machine
end

