-- ==== Sys2Proof/Machine/Configuration.lean ====
section
/-! DEFINITION. The configuration operations (40_configuration.md): `VALIDATE`, `BIND`,
`CONFIGURE_DIVIDER`, `INIT`. -/

namespace Sys2Proof.Machine

/-- `VALIDATE` (40_configuration.md R102): a pure query that reports every failing condition. -/
def execValidate (s : State) : Result :=
  s.gate [.host] anyMode
    (if validateMask s.cfg = 0 then s.respond .ok 0
     else s.respond .configurationError (validateMask s.cfg))

/-- `BIND role` (40_configuration.md R104): the line of the role, or the binding faults. Role numbers
above 25 are reserved (30_encoding.md R90). -/
def execBind (role : BitVec 8) (s : State) : Result :=
  s.gate [.host] anyMode
    (if 25 < role.toNat then s.refuse
     else if bindMask s.cfg role.toNat = 0 then
       s.respond .ok ((s.cfg.line role.toNat).setWidth 32)
     else s.respond .bindingError (bindMask s.cfg role.toNat))

/-- `CONFIGURE_DIVIDER d` (40_configuration.md R109), asked for on its own by the platform adapter
(log 5). -/
def execConfigureDivider (div : Word) (s : State) : Result :=
  s.gate [.adapter] anyMode (s.programDivider div).quiet

/-- What a successful `INIT` does (40_configuration.md R110): the divider is programmed, the frame
buffer takes its shape (20_memory.md R62), `MODE` becomes `Configured`. -/
def State.configure (s : State) : State :=
  let s := s.programDivider s.cfg.clockDivider
  { s with fb := s.fb.takeShape s.cfg.shape, mode := .configured }

/-- `INIT` (40_configuration.md R110): configuration and geometry first, then the binding. -/
def execInit (s : State) : Result :=
  let configMask := validateMask s.cfg ||| geometryMask s.cfg
  s.gate [.host] [.reset]
    (if configMask ≠ 0 then (s.fatalEntry .configuration configMask).respond .configurationError configMask
     else if bindingMask s.cfg ≠ 0 then
       (s.fatalEntry .binding (bindingMask s.cfg)).respond .bindingError (bindingMask s.cfg)
     else s.configure.respond .ok 0)

end Sys2Proof.Machine
end

