-- ==== Sys2Proof/Machine/Lifecycle.lean ====
section
/-! DEFINITION. The lifecycle operations (44_lifecycle.md): `LOADCFG`, `STATUS_READ`, `START`,
`SHUTDOWN`, `RESET`. -/

namespace Sys2Proof.Machine

/-- `LOADCFG n, v` (44_lifecycle.md R170): any value is stored; a number that is no configuration
register is refused. -/
def execLoadcfg (reg : BitVec 8) (val : Word) (s : State) : Result :=
  s.gate [.host] [.reset]
    (match s.cfg.write reg.toNat val with
     | some c => State.respond { s with cfg := c } .ok 0
     | none => s.refuse)

/-- `STATUS_READ n` (44_lifecycle.md R171): a reserved number is refused; nothing changes. -/
def execStatusRead (reg : BitVec 8) (s : State) : Result :=
  s.gate [.host, .producer] anyMode
    (match s.register reg.toNat with
     | some v => s.respond .ok v
     | none => s.refuse)

/-- `START` (44_lifecycle.md R173): the pins are activated at the blanked, unlatched, clock-low levels
unless they already are, and the loop runs. -/
def execStart (s : State) : Result :=
  s.gate [.host] [.configured, .stopped]
    (State.respond
      { s with
        bus := if s.bus.pinsActive then s.bus else s.bus.activatePins s.cfg.addressLines
        shutdownReq := false
        mode := .running } .ok 0)

/-- `SHUTDOWN` (44_lifecycle.md R174): the request waits for the row/plane boundary. -/
def execShutdown (s : State) : Result :=
  s.gate [.host] [.running] (State.respond { s with shutdownReq := true } .ok 0)

/-- `RESET` (44_lifecycle.md R176), the full reinitialization; refused in `Running`. -/
def execReset (s : State) : Result :=
  s.gate [.host] [.reset, .configured, .stopped, .faulted] (s.resetRegisters.respond .ok 0)

end Sys2Proof.Machine
end

