-- ==== Sys2Proof/Machine/Scheduler.lean ====
section
/-! DEFINITION. The five transitions of the Bit-Plane Scheduler (41_scheduler.md): `TICK`, `SELECT`,
`SHIFT_DONE`, `LATCH_DONE`, `BLANK_DONE`. -/

namespace Sys2Proof.Machine

/-- `applySwapIfBoundary()` (41_scheduler.md R127). -/
def State.applySwapIfBoundary (s : State) : State :=
  if s.pos = Pos.origin ∧ s.swapPending then
    { s with activeBuf := !s.activeBuf, swapPending := false }
  else s

/-- The loop stops (41_scheduler.md R128, R133). -/
def State.stop (s : State) : State := { s with mode := .stopped, shutdownReq := false }

/-- A cycle starts: the pair to service is taken from `POS` (41_scheduler.md R128). -/
def State.beginCycle (s : State) : State :=
  { s with curRow := s.pos.row, curPlane := s.pos.plane, fsm := .selectPlane }

/-- `TICK` (41_scheduler.md R128): the environment's gap passes, then a requested shutdown stops the
loop, else a cycle starts. -/
def execTick (s : State) : Result :=
  s.stepGate .idle
    (let s := { s with bus := s.bus.advance s.env.gap }
     if s.shutdownReq then s.stop.quiet else s.applySwapIfBoundary.beginCycle.quiet)

/-- `SELECT` (41_scheduler.md R129): with a buffer ready the row is taken from the active buffer, the
output blanked and the address set; else the cycle is skipped. -/
def execSelect (s : State) : Result :=
  s.stepGate .selectPlane
    (if s.env.ready then
      State.quiet { s with
        rowbuf := { s.rowbuf with
          words := s.fb.rowPlane s.cfg s.activeBuf s.curRow.toNat s.curPlane.toNat }
        bus := s.bus.blankThenAddress s.cfg.addressLines s.curRow
        fsm := .shifting }
     else s.skipCycle.quiet)

/-- `SHIFT_DONE` (41_scheduler.md R130): the Shifting phase is the pulse train of `W` pixels. -/
def execShiftDone (s : State) : Result :=
  s.stepGate .shifting
    (s.pulseTrain s.cfg.rowPixels.toNat
      (fun t => State.quiet { t with fsm := .latching }) (fun t => t.quiet))

/-- `LATCH_DONE` (41_scheduler.md R132): latch delay, latch pulse, output on. -/
def execLatchDone (s : State) : Result :=
  s.stepGate .latching
    (State.quiet { s with
      bus := s.bus.latchAndShow s.cfg.latchDelayTu s.cfg.latchPulseTu
      fsm := .blanking })

/-- `BLANK_DONE` (41_scheduler.md R133): the on-time, output off, the cycle is complete, the schedule
moves on, and a requested shutdown stops the loop. -/
def execBlankDone (s : State) : Result :=
  s.stepGate .blanking
    (let s := { s with bus := s.bus.onTimeThenBlank s.cfg.onTimeTu }
     let s := { (s.cycleComplete .complete).advancePos with fsm := .idle }
     if s.shutdownReq then s.stop.quiet else s.quiet)

/-- The operation the Scheduler takes in each FSM state (41_scheduler.md R120). -/
def FsmState.operation : FsmState → Instr
  | .idle => .tick
  | .selectPlane => .select
  | .shifting => .shiftDone
  | .latching => .latchDone
  | .blanking => .blankDone

end Sys2Proof.Machine
end

