-- ==== Sys2Proof/Machine/Sequencer.lean ====
section
/-! DEFINITION. The Signal Sequencer's operations (42_sequencer.md): `EMIT`, `START_PULSE_TRAIN`,
`ON_CYCLE_COMPLETE`, each asked for on its own by its agent (log 5). -/

namespace Sys2Proof.Machine

/-- Phases 3 to 5b and the report `Complete` (42_sequencer.md R149 to R152). -/
def State.latchShowComplete (s : State) : State :=
  State.cycleComplete { s with
    bus := (s.bus.latchAndShow s.cfg.latchDelayTu s.cfg.latchPulseTu).onTimeThenBlank s.cfg.onTimeTu }
    .complete

/-- `EMIT plane, row` (42_sequencer.md R140, R153): the five phases of one cycle in order, with the row
buffer as its data. A request outside SelectPlane or while a train runs is a timing violation; a row
or plane out of range is reserved (30_encoding.md R90); the FSM and `POS` are the Scheduler's and stay
(log 6). -/
def execEmit (plane : BitVec 8) (row : BitVec 16) (s : State) : Result :=
  s.gate [.sequencer] anyMode
    (if s.fsm ≠ .selectPlane ∨ s.trainBusy then
      { s.fatalEntry .timingViolation overlapInfo with reply := .cycleResult .aborted }
     else if s.cfg.rowAddresses ≤ row.toNat ∨ s.cfg.colorDepth.toNat ≤ plane.toNat then s.refuse
     else
      State.pulseTrain { s with bus := s.bus.blankThenAddress s.cfg.addressLines row }
        s.cfg.rowPixels.toNat
        (fun t => { t.latchShowComplete with reply := .cycleResult .complete })
        (fun t => { t with reply := .cycleResult .aborted }))

/-- `START_PULSE_TRAIN n` (42_sequencer.md R148). -/
def execStartPulseTrain (count : Word) (s : State) : Result :=
  s.gate [.adapter] anyMode (s.pulseTrain count.toNat (fun t => t.quiet) (fun t => t.quiet))

/-- `ON_CYCLE_COMPLETE result` (42_sequencer.md R152); a result other than 1 or 3 is reserved
(30_encoding.md R90). -/
def execOnCycleComplete (result : BitVec 8) (s : State) : Result :=
  s.gate [.adapter] anyMode
    (match resultOperand result with
     | some r => (s.cycleComplete r).quiet
     | none => s.refuse)

end Sys2Proof.Machine
end

