-- ==== Sys2Proof/Machine/Dispatch.lean ====
section
/-! DEFINITION. One arm per operation of spec/opcode_table.json, each a direct call of its meaning. -/

namespace Sys2Proof.Machine

/-- The meaning of an operation in a state, issued by the state's `agent`. -/
def exec (i : Instr) (s : State) : Host.Outcome State Fault Refusal :=
  match i with
  | .loadcfg reg val => Sys2Proof.Machine.execLoadcfg reg val s
  | .validate => Sys2Proof.Machine.execValidate s
  | .bind role => Sys2Proof.Machine.execBind role s
  | .configureDivider div => Sys2Proof.Machine.execConfigureDivider div s
  | .init => Sys2Proof.Machine.execInit s
  | .start => Sys2Proof.Machine.execStart s
  | .shutdown => Sys2Proof.Machine.execShutdown s
  | .reset => Sys2Proof.Machine.execReset s
  | .statusRead reg => Sys2Proof.Machine.execStatusRead reg s
  | .tick => Sys2Proof.Machine.execTick s
  | .select => Sys2Proof.Machine.execSelect s
  | .shiftDone => Sys2Proof.Machine.execShiftDone s
  | .latchDone => Sys2Proof.Machine.execLatchDone s
  | .blankDone => Sys2Proof.Machine.execBlankDone s
  | .emit plane row => Sys2Proof.Machine.execEmit plane row s
  | .startPulseTrain count => Sys2Proof.Machine.execStartPulseTrain count s
  | .onCycleComplete result => Sys2Proof.Machine.execOnCycleComplete result s
  | .getActiveRowPlane plane row => Sys2Proof.Machine.execGetActiveRowPlane plane row s
  | .swapBuffers => Sys2Proof.Machine.execSwapBuffers s
  | .fbWrite ch y x val => Sys2Proof.Machine.execFbWrite ch y x val s

end Sys2Proof.Machine
end

