-- ==== Sys2Proof/Machine/Requests.lean ====
section
/-! DEFINITION. What one request does (70_reset_and_hazards.md R232; logs 1, 2, 4): a word presented
by an agent, new environment inputs, the hardware reset, or, with nothing requested, the Scheduler's
own next operation. -/

namespace Sys2Proof.Machine

/-- An agent issues an operation. -/
def State.issue (s : State) (a : Agent) (i : Instr) : Result := exec i { s with agent := a }

/-- An agent presents a word; one that stands for no operation is refused (30_encoding.md R89, R92). -/
def State.present (s : State) (a : Agent) (w : CommandWord) : Result :=
  match decode w with
  | .ok i => s.issue a i
  | .error _ => .next (State.refuse { s with agent := a })

/-- What a request does (R232). -/
def State.take (s : State) (r : Request) : Result :=
  match r with
  | .op a w => s.present a w
  | .environment e => .next { s with env := e }
  | .hardwareReset => .next s.hardwareReset

/-- With nothing requested, the Scheduler takes its next step while `MODE = Running`; in every other
mode the block waits (41_scheduler.md R120, 70_reset_and_hazards.md R216, R218). -/
def State.runFreely (s : State) : Result :=
  if s.mode = .running then s.issue .scheduler s.fsm.operation else .next s

/-- The agent that presents a placed word: that of the operation's row, or the host when the word
stands for none (log 2). -/
def wordIssuer (w : CommandWord) : Agent :=
  match decode w with
  | .ok i => issuer i
  | .error _ => .host

end Sys2Proof.Machine
end

