-- ==== Sys2Proof/Machine/Step.lean ====
section
/-! DEFINITION. One step of the machine, and where a word is placed for the next step. -/

namespace Sys2Proof.Machine

/-- One step: the next request of the inbox, or the Scheduler's own next operation (logs 1, 4). -/
def step (s : State) : Host.Outcome State Fault Refusal :=
  match s.inbox with
  | [] => s.runFreely
  | r :: rest => State.take { s with inbox := rest } r

/-- The word placed where the next step takes it, the head of the inbox, presented by the agent of its
row (log 2). -/
def State.withFetchWord (s : State) (nbits w : Nat) : State :=
  { s with inbox := .op (wordIssuer (tableWord nbits w)) (tableWord nbits w) :: s.inbox }

end Sys2Proof.Machine
end

