-- ==== Sys2Proof/Safety.lean ====
section
/-! DEFINITION. What counts as a safe run, in the terms the statements use: the steps of a run
(70_reset_and_hazards.md R232), a valid configuration (40_configuration.md R111), a valid schedule
position (41_scheduler.md R126), the invariants of `WAVE` (42_sequencer.md R154) and the events of its
phases (R141 to R155), the invariant every step of a run keeps, the end of a run (R232), and the
reference panel observer (00_scope.md R12). -/

namespace Sys2Proof.Machine

/-! ## Steps of a run -/

/-- A request is a step of a run in the sense of R232: everything but an operation that stands inside
a step (30_encoding.md R85) asked for on its own by its own agent (log 5). -/
def Request.isRunStep : Request → Bool
  | .op a w =>
    match decode w with
    | .ok i => !(insideAStep i && (agentsOf i).contains a)
    | .error _ => true
  | .environment _ => true
  | .hardwareReset => true

/-- The next step of a state is a reset: the hardware reset event, or the host's `RESET` command. -/
def State.nextIsReset (s : State) : Prop :=
  s.inbox.head? = some .hardwareReset ∨ ∃ w, s.inbox.head? = some (.op .host w) ∧ decode w = .ok .reset

/-- The next step of a state is the host's `INIT` command. -/
def State.nextIsInit (s : State) : Prop :=
  ∃ w, s.inbox.head? = some (.op .host w) ∧ decode w = .ok .init

/-- The next step of a state is the host's `START` command. -/
def State.nextIsStart (s : State) : Prop :=
  ∃ w, s.inbox.head? = some (.op .host w) ∧ decode w = .ok .start

/-- The registers are as after either reset (70_reset_and_hazards.md R216, 10_state.md R42). -/
structure State.AtReset (s : State) : Prop where
  mode : s.mode = .reset
  configuration : s.cfg.latchPulseWidthNs = 0 ∧ s.cfg.latchToClockDelayNs = 0 ∧ s.cfg.clockDivider = 0 ∧
    s.cfg.baseClockMhz = 0 ∧ s.cfg.fixedOverheadNs = 0 ∧ s.cfg.colorDepth = 0 ∧ s.cfg.panelRows = 0 ∧
    s.cfg.rowPixels = 0 ∧ s.cfg.onUnitNs = 0 ∧ s.cfg.clockMode = 0
  binding : ∀ role, s.cfg.bindReg role = 0
  fsm : s.fsm = .idle
  pos : s.pos.row = 0 ∧ s.pos.tick = 0 ∧ s.pos.plane = 0
  cur : s.curRow = 0 ∧ s.curPlane = 0
  flags : s.activeBuf = false ∧ s.swapPending = false ∧ s.shutdownReq = false ∧
    s.bus.pinsActive = false ∧ s.trainBusy = false
  error : s.errCode = .noError ∧ s.errInfo = 0
  lastResult : s.lastResult = .noCycle
  divCfg : s.divCfg = 0
  outputs : s.bus.oe = false ∧ s.bus.lat = false ∧ s.bus.clk = false ∧ s.bus.data = 0 ∧ s.bus.addr = 0

/-! ## A valid configuration -/

/-- The facts that hold after a successful `INIT` (40_configuration.md R111). -/
structure ConfigRegs.Valid (c : ConfigRegs) : Prop where
  latchWidth : 20 ≤ c.latchPulseWidthNs.toNat ∧ c.latchPulseWidthNs.toNat ≤ 150
  latchDelay : 1 ≤ c.latchToClockDelayNs.toNat
  divider : c.clockDivider.toNat % 2 = 0 ∧ 20 ≤ c.clockDivider.toNat
  baseClock : 1 ≤ c.baseClockMhz.toNat
  overhead : 1 ≤ c.fixedOverheadNs.toNat
  depth : 1 ≤ c.colorDepth.toNat ∧ c.colorDepth.toNat ≤ 16
  rows : c.panelRows.toNat % 2 = 0 ∧ 2 ≤ c.panelRows.toNat ∧ c.panelRows.toNat ≤ 65536
  columns : c.rowPixels.toNat % 32 = 0 ∧ 32 ≤ c.rowPixels.toNat ∧ c.rowPixels.toNat ≤ 65504
  onTime : 1 ≤ c.onUnitNs.toNat
  clockMode : c.clockMode.toNat < 2
  clock : c.bound c.activeClockRole = true ∧ c.bound (5 - c.activeClockRole) = false
  bound : ∀ r ∈ c.requiredRoles, c.bound r = true
  distinct : ∀ i ∈ c.requiredRoles, ∀ j ∈ c.requiredRoles, i ≠ j → c.line i ≠ c.line j

/-- `0 ≤ r < R`, `0 ≤ t < 2^(N−1)`, `due(p, t)` with `p < N` (41_scheduler.md R126). -/
structure Pos.Valid (rows depth : Nat) (p : Pos) : Prop where
  row : p.row.toNat < rows
  tick : p.tick.toNat < ticksPerRow depth
  plane : p.plane.toNat < depth
  due : planeDue depth p.plane.toNat p.tick.toNat = true

/-- The modes a successful `INIT` leads to (40_configuration.md R111). -/
def Mode.initialised : Mode → Bool
  | .reset => false
  | .configured => true
  | .running => true
  | .stopped => true
  | .faulted => false

/-! ## The waveform -/

/-- The three control lines as the trace shows them. -/
structure Levels where
  oe : Bool
  lat : Bool
  clk : Bool
  deriving DecidableEq, Repr

/-- The control lines after one more event. -/
def Levels.apply (l : Levels) (e : Event) : Levels :=
  match e.line with
  | .oe => { l with oe := e.value }
  | .lat => { l with lat := e.value }
  | .clk => { l with clk := e.value }
  | .data _ => l
  | .addr _ => l

/-- The control lines after a trace, newest event first. -/
def levelsAfter : List Event → Levels
  | [] => { oe := false, lat := false, clk := false }
  | e :: past => (levelsAfter past).apply e

/-- An event that the invariants (a), (b), (c), (g) of 42_sequencer.md R154 allow after lines at some
levels: `ADDR` only while `OE = 0`; `CLK` and `DATA` only while `OE = 0` and `LAT = 0`; `DATA` only
while `CLK = 0`; `LAT` rises only while `OE = 0` and `CLK = 0`, and neither of the two rises under
it. -/
def Event.allowed (l : Levels) (e : Event) : Prop :=
  match e.line with
  | .oe => e.value = true → l.lat = false ∧ l.clk = false
  | .lat => e.value = true → l.oe = false ∧ l.clk = false
  | .clk => l.oe = false ∧ l.lat = false
  | .data _ => l.oe = false ∧ l.lat = false ∧ l.clk = false
  | .addr _ => l.oe = false

/-- Every event of a trace is allowed where it stands (42_sequencer.md R154). -/
def WaveSafe : List Event → Prop
  | [] => True
  | e :: past => e.allowed (levelsAfter past) ∧ WaveSafe past

/-- Times never go back and none is later than `now`: "in the order they were driven" (00_scope.md
R10). -/
def WaveOrdered (now : Nat) : List Event → Prop
  | [] => True
  | e :: past => e.time ≤ now ∧ WaveOrdered e.time past

/-- The number of rising `CLK` events of a trace. -/
def risingClocks (wave : List Event) : Nat :=
  wave.countP fun e => decide (e.line = .clk) && e.value

/-! ## The events of the phases (42_sequencer.md R141 to R155), oldest first -/

/-- The event of a drive: none where the line already has the value (00_scope.md R8 (e)). -/
def driveEvent (time : Nat) (l : Line) (was v : Bool) : List Event :=
  if was = v then [] else [{ time := time, line := l, value := v }]

/-- The colour bits that change, ascending (R143). -/
def dataEvents (time : Nat) (was word : BitVec 6) : List Event :=
  dataLines.flatMap fun i => driveEvent time (.data i) (was.getLsbD i) (word.getLsbD i)

/-- The address bits that change, ascending (R141). -/
def addrEvents (time lines : Nat) (was row : BitVec 16) : List Event :=
  (addrLines lines).flatMap fun i => driveEvent time (.addr i) (was.getLsbD i) (row.getLsbD i)

/-- One pixel that starts at `start`, its half period given, where `CLK` was `clk` and the colour bits
were `was` (R143). -/
def pixelEvents (start half : Nat) (clk : Bool) (was word : BitVec 6) : List Event :=
  dataEvents start was word ++ driveEvent (start + half) .clk clk true
    ++ [{ time := start + 2 * half, line := .clk, value := false }]

/-- The time at which column `x` of a train that starts at `now` starts: after the columns before it and
the stalls of its own transfer and those before (R145, R146). -/
def columnStart (now half : Nat) (stall : Nat → Nat) (x : Nat) : Nat :=
  now + ((List.range (x / 32 + 1)).map stall).sum + x * (2 * half)

/-- A completed train of `n` pixels that starts at `now` (R143 to R148). -/
def trainEvents (now half : Nat) (stall : Nat → Nat) (word : Nat → BitVec 6) (clk : Bool)
    (data : BitVec 6) (n : Nat) : List Event :=
  (List.range n).flatMap fun x =>
    pixelEvents (columnStart now half stall x) half (clk && x == 0)
      (if x = 0 then data else word (x - 1)) (word x)

/-- Safe levels (60_exceptions.md R192). -/
def safeEvents (time : Nat) (was : Levels) : List Event :=
  driveEvent time .oe was.oe false ++ driveEvent time .lat was.lat false
    ++ driveEvent time .clk was.clk false

/-! ## The invariant of a run -/

/-- What holds between any two steps of a run (see the rule named at each clause). -/
structure State.Inv (s : State) : Prop where
  /-- Only steps of a run are asked for (R232, log 5). -/
  requests : ∀ r ∈ s.inbox, r.isRunStep = true
  /-- The frame buffer keeps its canonical form (log 12). -/
  memory : s.fb.wf
  /-- "It is `Idle` whenever `MODE ≠ Running`" (10_state.md R30). -/
  idle : s.mode ≠ .running → s.fsm = .idle
  /-- `LAT`, `CLK` are 0 and no train runs between steps (42_sequencer.md R142, R148, R150). -/
  quiet : s.bus.lat = false ∧ s.bus.clk = false ∧ s.trainBusy = false
  /-- The output is enabled exactly in `Blanking` (41_scheduler.md R131). -/
  shown : s.bus.oe = true ↔ s.fsm = .blanking
  /-- A fatal error is recorded exactly in `Faulted`, and never code 3 (10_state.md R29). -/
  error : (s.errCode = .noError ↔ s.mode ≠ .faulted) ∧ s.errCode ≠ .bufferUnavailableError
  /-- No line is driven before `START` (10_state.md R39). -/
  pins : (s.mode = .reset ∨ s.mode = .configured → s.bus.pinsActive = false) ∧
    (s.mode = .running ∨ s.mode = .stopped → s.bus.pinsActive = true)
  /-- While no line is driven the output registers are 0. -/
  released : s.bus.pinsActive = false → s.bus.data = 0 ∧ s.bus.addr = 0
  /-- What `INIT` established stays (40_configuration.md R111, 10_state.md R37, 20_memory.md R62). -/
  initialised : s.mode.initialised = true →
    s.cfg.Valid ∧ s.divCfg = s.cfg.clockDivider ∧ s.fb.shape = s.cfg.shape
  /-- The schedule position is one of the schedule's (41_scheduler.md R126). -/
  position : s.mode.initialised = true → s.pos.Valid s.cfg.rowAddresses s.cfg.colorDepth.toNat
  /-- Before `INIT` it is the origin (10_state.md R31). -/
  origin : s.mode = .reset → s.pos = Pos.origin
  /-- The pair being serviced is that of `POS` (10_state.md R32). -/
  current : s.fsm ≠ .idle → s.curRow = s.pos.row ∧ s.curPlane = s.pos.plane
  /-- `ROWBUF` holds the row from `SELECT` on (10_state.md R40). -/
  rowWords : s.fsm = .shifting ∨ s.fsm = .latching ∨ s.fsm = .blanking →
    s.rowbuf.words.length = s.cfg.rowPixels.toNat
  /-- "The higher bits are always 0" (10_state.md R38). -/
  addrHigh : s.mode.initialised = true → ∀ i, s.cfg.addressLines ≤ i → s.bus.addr.getLsbD i = false
  /-- A shutdown request waits only in `Running`, or is left by a fatal error (60_exceptions.md R194). -/
  shutdown : s.shutdownReq = true → s.mode = .running ∨ s.mode = .faulted
  /-- 42_sequencer.md R154 (a), (b), (c), (g). -/
  wave : WaveSafe s.bus.wave
  /-- The order of events (00_scope.md R10). -/
  ordered : WaveOrdered s.bus.now s.bus.wave
  /-- The trace shows the lines that are driven (10_state.md R38, R41). -/
  traced : (levelsAfter s.bus.wave).lat = false ∧ (levelsAfter s.bus.wave).clk = false ∧
    (s.bus.pinsActive = true → (levelsAfter s.bus.wave).oe = s.bus.oe)
  /-- The grid of the frame buffer is none or one that `INIT` accepted (20_memory.md R60, log 10). -/
  grid : s.fb.shape.rows.toNat ≤ 65536 ∧ s.fb.shape.cols.toNat ≤ 65504 ∧ s.fb.shape.depth.toNat ≤ 16

/-! ## The end of a run -/

/-- The good end of a run (70_reset_and_hazards.md R232). -/
def State.GoodEnd (s : State) : Prop :=
  s.mode = .stopped ∧ s.fsm = .idle ∧ s.trainBusy = false ∧ s.bus.oe = false ∧ s.bus.lat = false ∧
    s.bus.clk = false

/-! ## The reference panel observer (00_scope.md R12): an aid, no state of the block -/

/-- The observer: the shift register and the output register, position 0 first, and the lines as the
events show them. -/
structure Panel where
  shift : List (BitVec 6)
  out : List (BitVec 6)
  levels : Levels
  data : BitVec 6
  addr : BitVec 16
  deriving DecidableEq, Repr

/-- On a rising `CLK` the word on the colour-bit lines enters at position 0 of the `width` words. -/
def Panel.clocked (width : Nat) (p : Panel) (e : Event) : Panel :=
  if e.line = .clk ∧ e.value = true ∧ p.levels.clk = false then
    { p with shift := (p.data :: p.shift).take width }
  else p

/-- The lines after the event. -/
def Panel.lines (p : Panel) (e : Event) : Panel :=
  match e.line with
  | .oe => { p with levels := p.levels.apply e }
  | .lat => { p with levels := p.levels.apply e }
  | .clk => { p with levels := p.levels.apply e }
  | .data i => { p with data := setBit p.data i e.value }
  | .addr i => { p with addr := setBit p.addr i e.value }

/-- While `LAT = 1` the output register follows the shift register. -/
def Panel.latched (p : Panel) : Panel := if p.levels.lat then { p with out := p.shift } else p

/-- An LED of the panel, as R12 names it: the row pair, the position in the output register, the bit of
its word. -/
structure Led where
  pair : BitVec 16
  position : Nat
  bit : Fin 6
  deriving DecidableEq, Repr

/-- "While `OE = 1`: the panel lights, on row pair `ADDR`, the LEDs whose bit in `OUT` is 1." -/
def Panel.lit (p : Panel) (led : Led) : Bool :=
  p.levels.oe && led.pair == p.addr && (p.out[led.position]?.getD 0).getLsbD led.bit

/-- What the observer makes of one event. -/
def Panel.see (width : Nat) (p : Panel) (e : Event) : Panel := ((p.clocked width e).lines e).latched

/-- What the observer makes of a trace, newest event first. -/
def Panel.observe (width : Nat) (p : Panel) : List Event → Panel
  | [] => p
  | e :: past => (p.observe width past).see width e

end Sys2Proof.Machine
end

