-- ==== Sys2Proof/Certificates/Slice0/Obligations.lean ====
section
/-! DEFINITION. The statements for the provers. An obligation's docstring names the rules it comes from
and, where it rests on a choice of the model, the log entry. -/

open Sys2Proof Sys2Proof.Machine

/-! ## Encoding -/

/-- 30_encoding.md R80 to R84: no bit of an encoding is dropped. -/
def Obligations.DecodeOfEncodeIsTheInstruction : Prop := ∀ i : Instr, decode (encode i) = .ok i

/-- 30_encoding.md R84, R81, R89: a word decodes as the row whose mask and match it meets, every
operation is read from its own word alone, and a word that meets no row is no operation. -/
def Obligations.WordsDecodeByMaskAndMatch : Prop :=
  (∀ (w : CommandWord) (i : Instr),
    (∃ j, decode w = .ok j ∧ tableMatch j = tableMatch i) ↔ w &&& tableMask i = tableMatch i) ∧
  ∀ (w : CommandWord) (i : Instr), decode w = .ok i → encode i = w

/-- Words of 95_test_vectors.md V11 (R84, R81, R89), written out from the encoding. -/
def Obligations.WorkedWordsDecode : Prop :=
  decode 0x0102000000000018#64 = .ok (.loadcfg 0x02#8 24#32) ∧
  decode 0x0302000000000000#64 = .ok (.bind 2#8) ∧
  decode 0x2202000200050002#64 = .ok (.fbWrite 2#8 2#16 5#16 2#16) ∧
  decode 0x1000000000000000#64 = .ok .tick ∧
  decode 0x1801000000000000#64 = .ok (.emit 1#8 0#16) ∧
  decode 0x1900000000000020#64 = .ok (.startPulseTrain 32#32) ∧
  decode 0x2001000300000000#64 = .ok (.getActiveRowPlane 1#8 3#16) ∧
  decode 0x0601000000000000#64 = .error .unusedFieldNotZero ∧
  decode 0x0302000100000000#64 = .error .unusedFieldNotZero ∧
  decode 0x0000000000000000#64 = .error .reservedOpcode ∧
  decode 0x2300000000000000#64 = .error .reservedOpcode

/-! ## The step -/

/-- The step runs the operation a presented word stands for, for its agent (log 1), and a word that
stands for none is refused (30_encoding.md R89, R92). -/
def Obligations.StepRunsThePresentedWord : Prop :=
  ∀ (s : State) (a : Agent) (w : CommandWord) (rest : List Request), s.inbox = .op a w :: rest →
    (∀ i, decode w = .ok i → step s = exec i { s with inbox := rest, agent := a }) ∧
    (∀ e, decode w = .error e →
      step s = .next { s with inbox := rest, agent := a, reply := .response .refused 0 })

/-- With nothing requested the Scheduler takes the operation of its FSM state while `Running`
(41_scheduler.md R120), and in every other mode the block waits (log 4); the environment's new inputs
change nothing else (log 3). -/
def Obligations.StepRunsTheSchedulerOrWaits : Prop :=
  (∀ s : State, s.inbox = [] → s.mode = .running →
    (s.fsm = .idle → step s = exec .tick { s with agent := .scheduler }) ∧
    (s.fsm = .selectPlane → step s = exec .select { s with agent := .scheduler }) ∧
    (s.fsm = .shifting → step s = exec .shiftDone { s with agent := .scheduler }) ∧
    (s.fsm = .latching → step s = exec .latchDone { s with agent := .scheduler }) ∧
    (s.fsm = .blanking → step s = exec .blankDone { s with agent := .scheduler })) ∧
  (∀ s : State, s.inbox = [] → s.mode ≠ .running → step s = .next s) ∧
  (∀ (s : State) (e : EnvInputs) (rest : List Request), s.inbox = .environment e :: rest →
    step s = .next { s with inbox := rest, env := e })

/-- "The block has no halt of its own" (70_reset_and_hazards.md R232): every step of every state
answers a next state. -/
def Obligations.EveryStepAnswersANextState : Prop := ∀ s : State, ∃ t, step s = .next t

/-- 70_reset_and_hazards.md R215, R216: the hardware reset event, in any mode. -/
def Obligations.HardwareResetClearsRegistersAndFrameBuffer : Prop :=
  ∀ (s : State) (rest : List Request), s.inbox = .hardwareReset :: rest →
    ∃ t, step s = .next t ∧ t.AtReset ∧ t.bus.now = s.bus.now ∧ t.bus.wave = s.bus.wave ∧
      t.inbox = rest ∧ t.env = s.env ∧
      (∀ x, t.rowbuf.word x = Config.rowbufUnspecified (s.rowbuf.generation + 1) x) ∧
      (∀ (depth : Nat) (b : Bool) (y x : Nat) (c : Channel), t.fb.read depth b y x c =
        lowBits depth (Config.fbUnspecified (s.fb.epoch + 1) (locationKey b y x c)))

/-- 70_reset_and_hazards.md R216, 10_state.md R42, R41: the state after the first reset. -/
def Obligations.ResetStateIsTheSpecs : Prop :=
  State.reset.AtReset ∧ State.reset.bus.now = 0 ∧ State.reset.bus.wave = [] ∧
    ∀ n, State.reset.register n = (if isRegister (BitVec.ofNat 8 n) ∧ n < 256 then some 0 else none)

/-- 30_encoding.md R92, R90, 60_exceptions.md R201: an operation its agent may not issue, that the
mode does not allow, or with a reserved operand is refused: it changes nothing and answers status 7,
value 0. -/
def Obligations.RefusedOperationsChangeNothing : Prop :=
  ∀ (i : Instr) (s : State),
    (s.agent ∉ agentsOf i ∨ s.mode ∉ modesOf i ∨ i.wellFormed = false) →
      exec i s = .next { s with reply := .response .refused 0 }

/-- 60_exceptions.md R201 (log 8), 30_encoding.md R90 (log 6): a step of the Scheduler outside its FSM
state, or an `EMIT` of a row or plane the configuration does not have, is refused. -/
def Obligations.OperationsOutOfPlaceAreRefused : Prop :=
  ∀ s : State,
    (s.fsm ≠ .idle → exec .tick s = .next { s with reply := .response .refused 0 }) ∧
    (s.fsm ≠ .selectPlane → exec .select s = .next { s with reply := .response .refused 0 }) ∧
    (s.fsm ≠ .shifting → exec .shiftDone s = .next { s with reply := .response .refused 0 }) ∧
    (s.fsm ≠ .latching → exec .latchDone s = .next { s with reply := .response .refused 0 }) ∧
    (s.fsm ≠ .blanking → exec .blankDone s = .next { s with reply := .response .refused 0 }) ∧
    ∀ (plane : BitVec 8) (row : BitVec 16), s.fsm = .selectPlane → s.trainBusy = false →
      (s.cfg.panelRows.toNat / 2 ≤ row.toNat ∨ s.cfg.colorDepth.toNat ≤ plane.toNat) →
      exec (.emit plane row) s = .next { s with reply := .response .refused 0 }

/-! ## Lifecycle -/

/-- 44_lifecycle.md R170. -/
def Obligations.LoadcfgStoresAnyValue : Prop :=
  ∀ (reg : BitVec 8) (val : Word) (s : State), s.agent = .host → s.mode = .reset →
    (isConfigRegister reg = true →
      ∃ t, exec (.loadcfg reg val) s = .next t ∧
        t = { s with cfg := t.cfg, reply := .response .ok 0 } ∧
        t.register reg.toNat = some val ∧ ∀ n, n ≠ reg.toNat → t.register n = s.register n) ∧
    (isConfigRegister reg = false →
      exec (.loadcfg reg val) s = .next { s with reply := .response .refused 0 })

/-- 44_lifecycle.md R171: nothing but the answer changes. -/
def Obligations.StatusReadAnswersTheRegister : Prop :=
  ∀ (reg : BitVec 8) (s : State), (s.agent = .host ∨ s.agent = .producer) →
    (isRegister reg = true →
      ∃ v, s.register reg.toNat = some v ∧
        exec (.statusRead reg) s = .next { s with reply := .response .ok v }) ∧
    (isRegister reg = false →
      exec (.statusRead reg) s = .next { s with reply := .response .refused 0 })

/-- 10_state.md R22, R23, R24, R27 to R34, R37, R38, 30_encoding.md R88: which field each register number
shows, with the spec's codes, and where the bits of `FLAGS` and `OUT` stand; every other number is reserved
(R20). -/
def Obligations.RegistersHoldTheirFields : Prop :=
  (∀ s : State,
    s.register 0x00 = some s.cfg.latchPulseWidthNs ∧ s.register 0x01 = some s.cfg.latchToClockDelayNs ∧
    s.register 0x02 = some s.cfg.clockDivider ∧ s.register 0x03 = some s.cfg.baseClockMhz ∧
    s.register 0x04 = some s.cfg.fixedOverheadNs ∧ s.register 0x05 = some s.cfg.colorDepth ∧
    s.register 0x06 = some s.cfg.panelRows ∧ s.register 0x07 = some s.cfg.rowPixels ∧
    s.register 0x08 = some s.cfg.onUnitNs ∧
    (∃ r, s.register 0x09 = some r ∧ r = s.cfg.clockMode ∧ s.cfg.clockAlt = r.getLsbD 0) ∧
    (∀ role, role < 26 → ∃ r, s.register (0x10 + role) = some r ∧
      s.cfg.bound role = r.getLsbD 31 ∧ s.cfg.line role = r.extractLsb' 0 16) ∧
    s.register 0x40 = some (match s.mode with
      | .reset => 0 | .configured => 1 | .running => 2 | .stopped => 3 | .faulted => 4) ∧
    s.register 0x41 = some (match s.fsm with
      | .idle => 0 | .selectPlane => 1 | .shifting => 2 | .latching => 3 | .blanking => 4) ∧
    s.register 0x42 = some (s.pos.row.setWidth 32) ∧ s.register 0x43 = some (s.pos.tick.setWidth 32) ∧
    s.register 0x44 = some (s.pos.plane.setWidth 32) ∧
    s.register 0x46 = some (match s.errCode with
      | .noError => 0 | .configurationError => 1 | .bindingError => 2 | .bufferUnavailableError => 3
      | .timingViolationError => 4) ∧
    s.register 0x47 = some s.errInfo ∧
    s.register 0x48 = some (match s.lastResult with
      | .noCycle => 0 | .complete => 1 | .skipped => 2 | .aborted => 3) ∧
    s.register 0x49 = some s.divCfg ∧ s.register 0x4B = some (s.curRow.setWidth 32) ∧
    s.register 0x4C = some (s.curPlane.setWidth 32) ∧
    s.register 0x45 = some s.flags ∧ s.register 0x4A = some s.bus.out ∧
    (∀ i, s.flags.getLsbD i =
      if i = 0 then s.activeBuf else if i = 1 then s.swapPending else if i = 2 then s.shutdownReq
      else if i = 3 then s.bus.pinsActive else if i = 4 then s.trainBusy else false) ∧
    (∀ i, s.bus.out.getLsbD i =
      if i = 0 then s.bus.oe else if i = 1 then s.bus.lat else if i = 2 then s.bus.clk
      else if i < 9 then s.bus.data.getLsbD (i - 3)
      else if i < 16 then false else s.bus.addr.getLsbD (i - 16)) ∧
    ∀ n, (∃ r, s.register n = some r) ↔ n ≤ 0x09 ∨ (0x10 ≤ n ∧ n ≤ 0x29) ∨ (0x40 ≤ n ∧ n ≤ 0x4C)) ∧
  ∀ st : Status, st.code = match st with
    | .ok => 0 | .configurationError => 1 | .bindingError => 2 | .bufferUnavailableError => 3
    | .timingViolationError => 4 | .refused => 7

/-- 44_lifecycle.md R173: the first activation drives every line to 0, recorded, in the rule's order;
from `Stopped` no event is recorded. -/
def Obligations.StartActivatesThePins : Prop :=
  ∀ s : State, s.agent = .host → (s.mode = .configured ∨ s.mode = .stopped) →
    ∃ t, exec .start s = .next t ∧
      t = { s with bus := t.bus, shutdownReq := false, mode := .running, reply := .response .ok 0 } ∧
      (s.bus.pinsActive = true → t.bus = s.bus) ∧
      (s.bus.pinsActive = false →
        t.bus.pinsActive = true ∧ t.bus.oe = false ∧ t.bus.lat = false ∧ t.bus.clk = false ∧
        t.bus.data = 0 ∧ t.bus.now = s.bus.now ∧
        (∀ i, t.bus.addr.getLsbD i =
          if i < s.cfg.addressLines ∧ i < 16 then false else s.bus.addr.getLsbD i) ∧
        t.bus.wave =
          (([Line.oe, .lat, .clk, .data 0, .data 1, .data 2, .data 3, .data 4, .data 5] ++
            (addrLines s.cfg.addressLines).map Line.addr).map
              fun l => { time := s.bus.now, line := l, value := false }).reverse ++ s.bus.wave)

/-- 44_lifecycle.md R174. -/
def Obligations.ShutdownOnlyLeavesARequest : Prop :=
  ∀ s : State, s.agent = .host →
    (s.mode = .running →
      exec .shutdown s = .next { s with shutdownReq := true, reply := .response .ok 0 }) ∧
    (s.mode ≠ .running → exec .shutdown s = .next { s with reply := .response .refused 0 })

/-- 44_lifecycle.md R176: every register at its reset value; the frame buffer, `NOW` and `WAVE` stay. -/
def Obligations.ResetCommandReinitialises : Prop :=
  ∀ s : State, s.agent = .host →
    (s.mode ≠ .running →
      ∃ t, exec .reset s = .next t ∧ t.AtReset ∧ t.fb = s.fb ∧ t.bus.now = s.bus.now ∧
        t.bus.wave = s.bus.wave ∧ t.reply = .response .ok 0 ∧ t.env = s.env ∧ t.inbox = s.inbox ∧
        t.agent = s.agent) ∧
    (s.mode = .running → exec .reset s = .next { s with reply := .response .refused 0 })

/-! ## Configuration -/

/-- 40_configuration.md R102: a pure query; every failing condition sets its bit. -/
def Obligations.ValidateReportsEveryFailingCondition : Prop :=
  ∀ s : State, s.agent = .host →
    ∃ m : Word, exec .validate s = .next { s with
        reply := if m = 0 then Reply.response .ok 0 else Reply.response .configurationError m } ∧
      ∀ i, m.getLsbD i = true ↔
        (i = 0 ∧ (s.cfg.latchPulseWidthNs.toNat < 20 ∨ 150 < s.cfg.latchPulseWidthNs.toNat)) ∨
        (i = 1 ∧ s.cfg.latchToClockDelayNs.toNat = 0) ∨
        (i = 2 ∧ s.cfg.clockDivider.toNat % 2 = 1) ∨
        (i = 3 ∧ s.cfg.clockDivider.toNat < 20) ∨
        (i = 4 ∧ s.cfg.fixedOverheadNs.toNat = 0) ∨
        (i = 5 ∧ s.cfg.baseClockMhz.toNat = 0)

/-- 40_configuration.md R103: the budget exceeds the 32-pixel shift time exactly when `V ≥ 1`, and
`VALIDATE` fails when `V = 0`. 00_scope.md R7, 40_configuration.md R101, R112 (c): every duration is exact,
"for `M ≥ 1`"; at `M = 0` the numbers are free values (log 25), of which nothing is said. -/
def Obligations.BudgetMustExceedTheShiftTime : Prop :=
  (∀ c : ConfigRegs, 1 ≤ c.baseClockMhz.toNat →
    c.latchDelayTu = c.latchToClockDelayNs.toNat * c.baseClockMhz.toNat ∧
    c.latchPulseTu = c.latchPulseWidthNs.toNat * c.baseClockMhz.toNat ∧
    c.onTimeTu = c.onUnitNs.toNat * c.baseClockMhz.toNat ∧
    c.slackTu = c.fixedOverheadNs.toNat * c.baseClockMhz.toNat ∧
    c.budgetTu = 32000 * c.clockDivider.toNat + c.fixedOverheadNs.toNat * c.baseClockMhz.toNat ∧
    (32000 * c.clockDivider.toNat < c.budgetTu ↔ 1 ≤ c.fixedOverheadNs.toNat)) ∧
  ∀ s : State, s.agent = .host → s.cfg.fixedOverheadNs.toNat = 0 →
    ∃ m : Word, m.getLsbD 4 = true ∧
      exec .validate s = .next { s with reply := .response .configurationError m }

/-- 40_configuration.md R104, R105: the line of the role, or the mask of the binding faults. -/
def Obligations.BindAnswersTheLineOrTheFaults : Prop :=
  ∀ (role : BitVec 8) (s : State), s.agent = .host →
    (25 < role.toNat → exec (.bind role) s = .next { s with reply := .response .refused 0 }) ∧
    (role.toNat ≤ 25 →
      ∃ (m : Word) (r : Word), s.register (0x10 + role.toNat) = some r ∧
        exec (.bind role) s = .next { s with
          reply := if m = 0 then Reply.response .ok ((r.extractLsb' 0 16).setWidth 32)
            else Reply.response .bindingError m } ∧
        (∀ i, i < 8 → (m.getLsbD i = true ↔
          (i = 0 ∧ r.getLsbD 31 = false) ∨
          (i = 1 ∧ s.cfg.bound 2 = true ∧ s.cfg.bound 3 = true) ∨
          (i = 2 ∧ s.cfg.bound 2 = false ∧ s.cfg.bound 3 = false) ∨
          (i = 3 ∧ s.cfg.bound 2 ≠ s.cfg.bound 3 ∧ s.cfg.bound 3 ≠ s.cfg.clockAlt))) ∧
        m.extractLsb' 8 24 = if r.getLsbD 31 then 0 else role.setWidth 24)

/-- 40_configuration.md R108: the bits of `geometryMask()`. -/
def Obligations.GeometryMaskBits : Prop :=
  ∀ (c : ConfigRegs) (i : Nat), (geometryMask c).getLsbD i = true ↔
    (i = 6 ∧ (c.colorDepth.toNat < 1 ∨ 16 < c.colorDepth.toNat)) ∨
    (i = 7 ∧ (c.panelRows.toNat % 2 = 1 ∨ c.panelRows.toNat < 2 ∨ 65536 < c.panelRows.toNat)) ∨
    (i = 8 ∧ (c.rowPixels.toNat % 32 ≠ 0 ∨ c.rowPixels.toNat < 32 ∨ 65504 < c.rowPixels.toNat)) ∨
    (i = 9 ∧ c.onUnitNs.toNat = 0) ∨
    (i = 10 ∧ c.clockMode.extractLsb' 1 31 ≠ 0)

/-- 40_configuration.md R105, R106, R107, 10_state.md R26: the bits of `bindingMask()`. -/
def Obligations.BindingMaskBits : Prop :=
  ∀ c : ConfigRegs,
    (∀ r, r ∈ c.requiredRoles ↔
      r = 0 ∨ r = 1 ∨ (r = 2 ∧ c.clockMode.getLsbD 0 = false) ∨ (r = 3 ∧ c.clockMode.getLsbD 0 = true) ∨
        (4 ≤ r ∧ r ≤ 9) ∨ (10 ≤ r ∧ r < 10 + c.addressLines)) ∧
    (∀ i, i < 8 → ((bindingMask c).getLsbD i = true ↔
      (i = 0 ∧ ∃ r ∈ c.requiredRoles, c.bound r = false) ∨
      (i = 1 ∧ c.bound 2 = true ∧ c.bound 3 = true) ∨
      (i = 2 ∧ c.bound 2 = false ∧ c.bound 3 = false) ∨
      (i = 3 ∧ c.bound 2 ≠ c.bound 3 ∧ c.bound 3 ≠ c.clockAlt) ∨
      (i = 4 ∧ ∃ p q, 4 ≤ p ∧ p ≤ 9 ∧ 4 ≤ q ∧ q ≤ 9 ∧ p ≠ q ∧ c.bound p = true ∧ c.bound q = true ∧
        c.line p = c.line q) ∨
      (i = 5 ∧ ∃ p ∈ c.requiredRoles, ∃ q ∈ c.requiredRoles, p ≠ q ∧
        ¬ (4 ≤ p ∧ p ≤ 9 ∧ 4 ≤ q ∧ q ≤ 9) ∧ c.bound p = true ∧ c.bound q = true ∧ c.line p = c.line q))) ∧
    ((∀ r ∈ c.requiredRoles, c.bound r = true) → (bindingMask c).extractLsb' 8 24 = 0) ∧
    (∀ r ∈ c.requiredRoles, c.bound r = false → (∀ q ∈ c.requiredRoles, q < r → c.bound q = true) →
      (bindingMask c).extractLsb' 8 24 = BitVec.ofNat 24 r)

/-- 10_state.md R25, R26, R27, R38, R39: role and output of each other; `CLK` goes to the active clock role,
and the other clock role drives nothing and, after `INIT`, has no assignment; in a valid configuration every
output in use appears on the line of its role and on no other, and the line carries its level while the
pins are active. -/
def Obligations.OutputsAppearOnTheirRolesLines : Prop :=
  (∀ c : ConfigRegs,
    c.outputOf 0 = some .oe ∧ c.outputOf 1 = some .lat ∧
    (∀ i : Fin 6, c.outputOf (4 + i.val) = some (.data i)) ∧
    (∀ i : Fin 16, c.outputOf (10 + i.val) = some (.addr i)) ∧
    (∀ role, 26 ≤ role → c.outputOf role = none) ∧
    (∀ (l : Line) (role : Nat), c.outputOf role = some l ↔ c.roleOf l = role) ∧
    (∀ l : Line, c.lineOf l = if c.bound (c.roleOf l) then some (c.line (c.roleOf l)) else none) ∧
    c.activeClockRole = (if c.clockMode.getLsbD 0 then 3 else 2) ∧
    c.roleOf .clk = c.activeClockRole ∧ c.outputOf c.activeClockRole = some .clk ∧
    (∀ role, (role = 2 ∨ role = 3) → role ≠ c.activeClockRole →
      c.outputOf role = none ∧ (∀ l, c.roleOf l ≠ role) ∧ (c.Valid → c.bound role = false)) ∧
    (c.Valid → c.lineOf .clk = some (c.line c.activeClockRole))) ∧
  ∀ s : State, s.cfg.Valid →
    (∀ l : Line, (∀ i, l = .addr i → i.val < s.cfg.addressLines) → ∀ n : BitVec 16,
      (s.cfg.outputOn n = some l ↔ s.cfg.lineOf l = some n) ∧
      (s.cfg.lineOf l = some n →
        s.lineLevel n = if s.bus.pinsActive then some (s.bus.level l) else none)) ∧
    ∀ n : BitVec 16, (∀ r ∈ s.cfg.requiredRoles, s.cfg.line r ≠ n) → s.lineLevel n = none

/-- 00_scope.md R6: `A` is the least number of address lines with `2^A ≥ R`. -/
def Obligations.AddressLinesAreTheFewest : Prop :=
  ∀ c : ConfigRegs, c.panelRows.toNat ≤ 65536 →
    c.panelRows.toNat / 2 ≤ 2 ^ c.addressLines ∧
    ∀ a, a < c.addressLines → 2 ^ a < c.panelRows.toNat / 2

/-- 40_configuration.md R109; asked for on its own (log 5). -/
def Obligations.ConfigureDividerProgramsDivCfg : Prop :=
  ∀ (d : Word) (s : State), s.agent = .adapter →
    exec (.configureDivider d) s = .next { s with divCfg := d, reply := .silent }

/-- 40_configuration.md R110, 60_exceptions.md R192, 20_memory.md R62 (and log 10 for contents kept
with an unchanged shape): the three ends of `INIT`. -/
def Obligations.InitConfiguresOrFaults : Prop :=
  ∀ s : State, s.agent = .host → s.mode = .reset → s.errCode = .noError →
    (validateMask s.cfg ||| geometryMask s.cfg ≠ 0 →
      exec .init s = .next { s with
        mode := .faulted, fsm := .idle, errCode := .configurationError
        errInfo := validateMask s.cfg ||| geometryMask s.cfg
        reply := .response .configurationError (validateMask s.cfg ||| geometryMask s.cfg) }) ∧
    (validateMask s.cfg ||| geometryMask s.cfg = 0 → bindingMask s.cfg ≠ 0 →
      exec .init s = .next { s with
        mode := .faulted, fsm := .idle, errCode := .bindingError, errInfo := bindingMask s.cfg
        reply := .response .bindingError (bindingMask s.cfg) }) ∧
    (validateMask s.cfg ||| geometryMask s.cfg = 0 → bindingMask s.cfg = 0 →
      ∃ t, exec .init s = .next t ∧
        t = { s with mode := .configured, divCfg := s.cfg.clockDivider, fb := t.fb
                     reply := .response .ok 0 } ∧
        t.fb.shape.rows = s.cfg.panelRows ∧ t.fb.shape.cols = s.cfg.rowPixels ∧
        t.fb.shape.depth = s.cfg.colorDepth ∧
        (s.fb.shape = t.fb.shape → t.fb = s.fb) ∧
        (s.fb.shape ≠ t.fb.shape → t.fb.cells = [] ∧ t.fb.epoch = s.fb.epoch + 1))

/-- 40_configuration.md R111: what holds after a successful `INIT`. -/
def Obligations.SuccessfulInitEstablishesValidity : Prop :=
  ∀ s t : State, s.agent = .host → s.mode = .reset → exec .init s = .next t → t.mode = .configured →
    t.cfg = s.cfg ∧ t.cfg.Valid ∧ t.divCfg = t.cfg.clockDivider

/-! ## Scheduler -/

/-- 41_scheduler.md R128, R127 (the gap is the environment's, log 3): a shutdown request stops the loop,
else a cycle starts, with the swap at the frame boundary only. -/
def Obligations.TickStopsOrStartsACycle : Prop :=
  ∀ s : State, s.agent = .scheduler → s.mode = .running → s.fsm = .idle →
    (s.shutdownReq = true →
      exec .tick s = .next { s with
        bus := { s.bus with now := s.bus.now + s.env.gap }
        mode := .stopped, shutdownReq := false, reply := .silent }) ∧
    (s.shutdownReq = false →
      exec .tick s = .next { s with
        bus := { s.bus with now := s.bus.now + s.env.gap }
        activeBuf :=
          if s.pos.row = 0 ∧ s.pos.tick = 0 ∧ s.pos.plane = 0 ∧ s.swapPending = true then !s.activeBuf
          else s.activeBuf
        swapPending :=
          if s.pos.row = 0 ∧ s.pos.tick = 0 ∧ s.pos.plane = 0 then false else s.swapPending
        curRow := s.pos.row, curPlane := s.pos.plane, fsm := .selectPlane, reply := .silent })

/-- 41_scheduler.md R129, 42_sequencer.md R141, 20_memory.md R63 (`ready` is the environment's, log 3):
the row of the active buffer is taken, the output blanked, then the changed address bits driven in
ascending order. The buffer has the configured grid in every state of a run (`State.Inv`); in another
grid the words are free values (log 26). -/
def Obligations.SelectTakesTheRowAndSetsTheAddress : Prop :=
  ∀ s : State, s.agent = .scheduler → s.mode = .running → s.fsm = .selectPlane → s.env.ready = true →
    ∃ t, exec .select s = .next t ∧
      t = { s with rowbuf := t.rowbuf, bus := t.bus, fsm := .shifting, reply := .silent } ∧
      t.rowbuf.words.length = s.cfg.rowPixels.toNat ∧
      (s.fb.shape = s.cfg.shape → ∀ x, x < s.cfg.rowPixels.toNat →
        let value (lower : Bool) (c : Channel) : Bool :=
          (s.fb.read s.cfg.colorDepth.toNat s.activeBuf
            (s.curRow.toNat + if lower then s.cfg.panelRows.toNat / 2 else 0) x c).getLsbD
              s.curPlane.toNat
        ∀ i, (t.rowbuf.word x).getLsbD i =
          if i = 0 then value false .red else if i = 1 then value true .red
          else if i = 2 then value false .green else if i = 3 then value true .green
          else if i = 4 then value false .blue else if i = 5 then value true .blue else false) ∧
      t.bus = { s.bus with oe := false, addr := t.bus.addr, wave := t.bus.wave } ∧
      (∀ i, t.bus.addr.getLsbD i =
        if i < s.cfg.addressLines ∧ i < 16 then s.curRow.getLsbD i else s.bus.addr.getLsbD i) ∧
      (s.bus.pinsActive = true → s.bus.oe = false →
        t.bus.wave =
          (((addrLines s.cfg.addressLines).filter fun i : Fin 16 =>
              s.bus.addr.getLsbD (i : Nat) != s.curRow.getLsbD (i : Nat)).map fun i : Fin 16 =>
                { time := s.bus.now, line := .addr i, value := s.curRow.getLsbD (i : Nat) }).reverse
            ++ s.bus.wave)

/-- 60_exceptions.md R193, 41_scheduler.md R129: the recoverable entry. -/
def Obligations.UnreadyBufferSkipsTheCycle : Prop :=
  ∀ s : State, s.agent = .scheduler → s.mode = .running → s.fsm = .selectPlane → s.env.ready = false →
    exec .select s = .next { s with
      lastResult := .skipped
      pos := s.pos.succ (s.cfg.panelRows.toNat / 2) s.cfg.colorDepth.toNat
      fsm := .idle, reply := .silent }

/-- 41_scheduler.md R130, 42_sequencer.md R142 to R148 (stalls in tu, log 3, log 13; log 7 for a `W` no
`INIT` accepts): with every stall within `V` the phase completes; every event of it with its time, and
what the lines are at the shift-complete event. -/
def Obligations.ShiftDoneCompletesWithinBudget : Prop :=
  ∀ s : State, s.agent = .scheduler → s.mode = .running → s.fsm = .shifting → s.trainBusy = false →
    (∀ k, k < (s.cfg.rowPixels.toNat + 31) / 32 → s.env.stallOf k ≤ s.cfg.slackTu) →
    ∃ t, exec .shiftDone s = .next t ∧
      t = { s with bus := t.bus, fsm := .latching, reply := .silent } ∧
      t.bus = { s.bus with
        clk := s.bus.clk && s.cfg.rowPixels.toNat == 0
        data := if s.cfg.rowPixels.toNat = 0 then s.bus.data else s.rowbuf.word (s.cfg.rowPixels.toNat - 1)
        now := s.bus.now + ((List.range ((s.cfg.rowPixels.toNat + 31) / 32)).map s.env.stallOf).sum
          + s.cfg.rowPixels.toNat * (1000 * s.divCfg.toNat)
        wave := (if s.bus.pinsActive then
            (trainEvents s.bus.now (500 * s.divCfg.toNat) s.env.stallOf s.rowbuf.word s.bus.clk s.bus.data
              s.cfg.rowPixels.toNat).reverse
          else []) ++ s.bus.wave } ∧
      (s.bus.pinsActive = true → s.bus.clk = false →
        risingClocks t.bus.wave = risingClocks s.bus.wave + s.cfg.rowPixels.toNat)

/-- 42_sequencer.md R146, 60_exceptions.md R189, R192, R194 (8) (stalls in tu, log 3, log 13): the first
transfer whose stall exceeds `V` ends the loop at its deadline. -/
def Obligations.OverrunIsFatal : Prop :=
  ∀ (s : State) (k : Nat), s.agent = .scheduler → s.mode = .running → s.fsm = .shifting →
    s.trainBusy = false → s.errCode = .noError → s.cfg.rowPixels.toNat % 32 = 0 →
    s.cfg.rowPixels.toNat ≤ 65504 → k < s.cfg.rowPixels.toNat / 32 →
    s.cfg.slackTu < s.env.stallOf k →
    (∀ j, j < k → s.env.stallOf j ≤ s.cfg.slackTu) →
    ∃ t, exec .shiftDone s = .next t ∧
      t = { s with bus := t.bus, errCode := .timingViolationError, errInfo := t.errInfo
                   lastResult := .aborted, fsm := .idle, mode := .faulted, reply := .silent } ∧
      t.errInfo.extractLsb' 0 16 = 1 ∧ t.errInfo.extractLsb' 16 16 = BitVec.ofNat 16 k ∧
      t.bus.oe = false ∧ t.bus.lat = false ∧ t.bus.clk = false ∧ t.bus.addr = s.bus.addr ∧
      t.bus.pinsActive = s.bus.pinsActive ∧
      t.bus.now = s.bus.now + ((List.range k).map s.env.stallOf).sum
        + k * (32 * (1000 * s.divCfg.toNat)) + s.cfg.budgetTu

/-- 41_scheduler.md R132, 42_sequencer.md R149, R150, R151: `LAT` rises `D` ns after the step begins and
falls exactly `L` ns later, when `OE` rises. (At `M = 0` the two durations are free values, log 25.) -/
def Obligations.LatchPulseIsExact : Prop :=
  ∀ s : State, s.agent = .scheduler → s.mode = .running → s.fsm = .latching →
    s.bus.pinsActive = true → s.bus.oe = false → s.bus.lat = false →
    let rise := s.bus.now + s.cfg.latchDelayTu
    let fall := rise + s.cfg.latchPulseTu
    (1 ≤ s.cfg.baseClockMhz.toNat →
      rise = s.bus.now + s.cfg.latchToClockDelayNs.toNat * s.cfg.baseClockMhz.toNat ∧
      fall = rise + s.cfg.latchPulseWidthNs.toNat * s.cfg.baseClockMhz.toNat) ∧
    exec .latchDone s = .next { s with
      bus := { s.bus with
        oe := true, now := fall
        wave := { time := fall, line := .oe, value := true } ::
          { time := fall, line := .lat, value := false } ::
          { time := rise, line := .lat, value := true } :: s.bus.wave }
      fsm := .blanking, reply := .silent }

/-- 41_scheduler.md R133, 42_sequencer.md R152: the output stays on exactly `U` ns, the cycle is
complete, the schedule moves on, and a requested shutdown stops the loop. (At `M = 0` the on-time is a
free value, log 25.) -/
def Obligations.BlankDoneCompletesTheCycle : Prop :=
  ∀ s : State, s.agent = .scheduler → s.mode = .running → s.fsm = .blanking →
    s.bus.pinsActive = true → s.bus.oe = true →
    let off := s.bus.now + s.cfg.onTimeTu
    (1 ≤ s.cfg.baseClockMhz.toNat →
      off = s.bus.now + s.cfg.onUnitNs.toNat * s.cfg.baseClockMhz.toNat) ∧
    exec .blankDone s = .next { s with
      bus := { s.bus with
        oe := false, now := off, wave := { time := off, line := .oe, value := false } :: s.bus.wave }
      lastResult := .complete
      pos := s.pos.succ (s.cfg.panelRows.toNat / 2) s.cfg.colorDepth.toNat
      fsm := .idle
      mode := if s.shutdownReq then .stopped else .running
      shutdownReq := false, reply := .silent }

/-- 41_scheduler.md R120: exactly these transitions; a fatal error or a reset also leads to `Idle`
(60_exceptions.md R192, 70_reset_and_hazards.md R216). -/
def Obligations.FsmChangesOnlyByItsTransitions : Prop :=
  ∀ s t : State, step s = .next t → t.fsm ≠ s.fsm →
    (s.mode = .running ∧
      ((s.fsm = .idle ∧ t.fsm = .selectPlane) ∨
       (s.fsm = .selectPlane ∧ t.fsm = .shifting ∧ s.env.ready = true) ∨
       (s.fsm = .selectPlane ∧ t.fsm = .idle ∧ s.env.ready = false ∧ t.lastResult = .skipped) ∨
       (s.fsm = .shifting ∧ t.fsm = .latching) ∨
       (s.fsm = .latching ∧ t.fsm = .blanking) ∨
       (s.fsm = .blanking ∧ t.fsm = .idle ∧ t.lastResult = .complete))) ∨
    (t.fsm = .idle ∧ (t.mode = .faulted ∨ s.nextIsReset))

/-- 41_scheduler.md R127, 43_framebuffer.md R163 (a): the active buffer changes only at a frame
boundary, by one flip that clears the request, or by a reset. -/
def Obligations.SwapOnlyAtAFrameBoundary : Prop :=
  ∀ s t : State, step s = .next t → t.activeBuf ≠ s.activeBuf →
    s.nextIsReset ∨
    (s.mode = .running ∧ s.fsm = .idle ∧ s.pos = Pos.origin ∧ s.swapPending = true ∧
      s.shutdownReq = false ∧ t.activeBuf = !s.activeBuf ∧ t.swapPending = false ∧
      t.fsm = .selectPlane)

/-! ## The schedule -/

/-- 41_scheduler.md R123: the planes due at `t` are exactly `first(t)` to `N − 1`. -/
def Obligations.PlanesAreDueFromTheFirstOn : Prop :=
  ∀ depth p t : Nat, 1 ≤ depth → p < depth → t < 2 ^ (depth - 1) →
    (planeDue depth p t = true ↔ t % 2 ^ (depth - 1 - p) = 0) ∧
    (planeDue depth p t = true ↔ firstPlane depth t ≤ p)

/-- 41_scheduler.md R122, R124: plane `p` is visited `2^p` times in the `2^N − 1` slots of a row-scan
period, and every slot holds a plane. -/
def Obligations.PlaneIsVisitedTwoToItsIndexTimes : Prop :=
  ∀ depth : Nat, 1 ≤ depth →
    (slots depth).length = 2 ^ depth - 1 ∧ (∀ p ∈ slots depth, p < depth) ∧
    ∀ p, p < depth → (slots depth).count p = 2 ^ p

/-- 41_scheduler.md R126: `succ` keeps a position of the schedule a position of the schedule. -/
def Obligations.SuccessorKeepsPositionsValid : Prop :=
  ∀ (rows depth : Nat) (p : Pos), rows ≤ 65536 → depth ≤ 16 → p.Valid rows depth →
    (p.succ rows depth).Valid rows depth

/-- 41_scheduler.md R125, R126, R134: from the origin, `R·S` successors service every row address in
ascending order with the slots of a row-scan period, and come back to the origin. -/
def Obligations.ScheduleIsRowMajorAndReturns : Prop :=
  ∀ rows depth : Nat, 1 ≤ rows → rows ≤ 32768 → 1 ≤ depth → depth ≤ 16 →
    (Pos.succ rows depth)^[rows * (2 ^ depth - 1)] Pos.origin = Pos.origin ∧
    ((List.range (rows * (2 ^ depth - 1))).map fun k =>
      (((Pos.succ rows depth)^[k] Pos.origin).row.toNat,
        ((Pos.succ rows depth)^[k] Pos.origin).plane.toNat)) =
      (List.range rows).flatMap fun r => (slots depth).map fun p => (r, p)

/-! ## Sequencer -/

/-- 42_sequencer.md R140 to R152, asked for on its own (log 5, log 6; log 7 for a `W` no `INIT` accepts;
stalls in tu, log 3, log 13): the five phases of one cycle, every event with its time, whatever the lines
were. -/
def Obligations.EmitRunsOneWholeCycle : Prop :=
  ∀ (plane : BitVec 8) (row : BitVec 16) (s : State), s.agent = .sequencer → s.fsm = .selectPlane →
    s.trainBusy = false → row.toNat < s.cfg.panelRows.toNat / 2 → plane.toNat < s.cfg.colorDepth.toNat →
    (∀ k, k < (s.cfg.rowPixels.toNat + 31) / 32 → s.env.stallOf k ≤ s.cfg.slackTu) →
    let complete := s.bus.now + ((List.range ((s.cfg.rowPixels.toNat + 31) / 32)).map s.env.stallOf).sum
      + s.cfg.rowPixels.toNat * (1000 * s.divCfg.toNat)
    let rise := complete + s.cfg.latchDelayTu
    let fall := rise + s.cfg.latchPulseTu
    let off := fall + s.cfg.onTimeTu
    ∃ t, exec (.emit plane row) s = .next t ∧
      t = { s with bus := t.bus, lastResult := .complete, reply := .cycleResult .complete } ∧
      t.bus = { s.bus with
        oe := false, lat := false
        clk := s.bus.clk && s.cfg.rowPixels.toNat == 0
        data := if s.cfg.rowPixels.toNat = 0 then s.bus.data else s.rowbuf.word (s.cfg.rowPixels.toNat - 1)
        addr := t.bus.addr, now := off
        wave := (if s.bus.pinsActive then
            (driveEvent s.bus.now .oe s.bus.oe false
              ++ addrEvents s.bus.now s.cfg.addressLines s.bus.addr row
              ++ trainEvents s.bus.now (500 * s.divCfg.toNat) s.env.stallOf s.rowbuf.word s.bus.clk
                  s.bus.data s.cfg.rowPixels.toNat
              ++ driveEvent rise .lat s.bus.lat true
              ++ ([{ time := fall, line := .lat, value := false }, { time := fall, line := .oe, value := true },
                  { time := off, line := .oe, value := false }] : List Event)).reverse
          else []) ++ s.bus.wave } ∧
      (∀ i, t.bus.addr.getLsbD i =
        if i < s.cfg.addressLines ∧ i < 16 then row.getLsbD i else s.bus.addr.getLsbD i) ∧
      (s.bus.pinsActive = true → s.bus.clk = false →
        risingClocks t.bus.wave = risingClocks s.bus.wave + s.cfg.rowPixels.toNat)

/-- 42_sequencer.md R153, 60_exceptions.md R189, R192, R196, asked for on their own: an overlapping request
is a timing violation. That the two run in any mode is log 5; that an `EMIT` out of range raises it too,
the overlap being tested before the range of 30_encoding.md R90, is log 6. The lines go to their safe
levels with the events of that, and nothing else of them changes. -/
def Obligations.OverlapIsATimingViolation : Prop :=
  ∀ s : State,
    let safe : Bus := { s.bus with
      oe := false, lat := false, clk := false
      wave := (if s.bus.pinsActive then
          (safeEvents s.bus.now { oe := s.bus.oe, lat := s.bus.lat, clk := s.bus.clk }).reverse
        else []) ++ s.bus.wave }
    (∀ (plane : BitVec 8) (row : BitVec 16), s.agent = .sequencer →
      (s.fsm ≠ .selectPlane ∨ s.trainBusy = true) →
      ∃ t, exec (.emit plane row) s = .next t ∧
        t = { s with bus := safe, errCode := t.errCode, errInfo := t.errInfo, trainBusy := false
                     lastResult := .aborted, fsm := .idle, mode := .faulted
                     reply := .cycleResult .aborted } ∧
        (s.errCode = .noError → t.errCode = .timingViolationError ∧ t.errInfo = 2) ∧
        (s.errCode ≠ .noError → t.errCode = s.errCode ∧ t.errInfo = s.errInfo)) ∧
    (∀ count : Word, s.agent = .adapter → s.trainBusy = true →
      ∃ t, exec (.startPulseTrain count) s = .next t ∧
        t = { s with bus := safe, errCode := t.errCode, errInfo := t.errInfo, trainBusy := false
                     lastResult := .aborted, fsm := .idle, mode := .faulted, reply := .silent } ∧
        (s.errCode = .noError → t.errCode = .timingViolationError ∧ t.errInfo = 2) ∧
        (s.errCode ≠ .noError → t.errCode = s.errCode ∧ t.errInfo = s.errInfo))

/-- 42_sequencer.md R142 to R148, asked for on its own (log 5; log 7 for a count that is no multiple of 32;
stalls in tu, log 3, log 13): every event with its time, and exactly `n` rising edges when it completes. -/
def Obligations.PulseTrainClocksExactlyItsPixels : Prop :=
  ∀ (count : Word) (s : State), s.agent = .adapter → s.trainBusy = false →
    (∀ k, k < (count.toNat + 31) / 32 → s.env.stallOf k ≤ s.cfg.slackTu) →
    ∃ t, exec (.startPulseTrain count) s = .next t ∧
      t = { s with bus := t.bus, reply := .silent } ∧
      t.bus = { s.bus with
        clk := s.bus.clk && count.toNat == 0
        data := if count.toNat = 0 then s.bus.data else s.rowbuf.word (count.toNat - 1)
        now := s.bus.now + ((List.range ((count.toNat + 31) / 32)).map s.env.stallOf).sum
          + count.toNat * (1000 * s.divCfg.toNat)
        wave := (if s.bus.pinsActive then
            (trainEvents s.bus.now (500 * s.divCfg.toNat) s.env.stallOf s.rowbuf.word s.bus.clk s.bus.data
              count.toNat).reverse
          else []) ++ s.bus.wave } ∧
      (s.bus.pinsActive = true → s.bus.clk = false →
        risingClocks t.bus.wave = risingClocks s.bus.wave + count.toNat)

/-- 42_sequencer.md R146, R148, 60_exceptions.md R189, R192, asked for on their own (log 5, log 6, log 7,
log 21; stalls in tu, log 3, log 13): the first transfer whose stall exceeds `V` aborts an `EMIT` or a
pulse train at its deadline. -/
def Obligations.StandAloneOverrunIsFatal : Prop :=
  ∀ (s : State) (k : Nat), s.trainBusy = false → s.errCode = .noError →
    s.cfg.slackTu < s.env.stallOf k → (∀ j, j < k → s.env.stallOf j ≤ s.cfg.slackTu) →
    let deadline := s.bus.now + ((List.range k).map s.env.stallOf).sum
      + k * (32 * (1000 * s.divCfg.toNat)) + s.cfg.budgetTu
    (∀ count : Word, s.agent = .adapter → k < (count.toNat + 31) / 32 →
      ∃ t, exec (.startPulseTrain count) s = .next t ∧
        t = { s with bus := t.bus, errCode := .timingViolationError, errInfo := t.errInfo
                     lastResult := .aborted, fsm := .idle, mode := .faulted, reply := .silent } ∧
        t.errInfo.extractLsb' 0 16 = 1 ∧ t.errInfo.extractLsb' 16 16 = BitVec.ofNat 16 k ∧
        t.bus.oe = false ∧ t.bus.lat = false ∧ t.bus.clk = false ∧ t.bus.addr = s.bus.addr ∧
        t.bus.pinsActive = s.bus.pinsActive ∧ t.bus.now = deadline) ∧
    (∀ (plane : BitVec 8) (row : BitVec 16), s.agent = .sequencer → s.fsm = .selectPlane →
      row.toNat < s.cfg.panelRows.toNat / 2 → plane.toNat < s.cfg.colorDepth.toNat →
      k < (s.cfg.rowPixels.toNat + 31) / 32 →
      ∃ t, exec (.emit plane row) s = .next t ∧
        t = { s with bus := t.bus, errCode := .timingViolationError, errInfo := t.errInfo
                     lastResult := .aborted, fsm := .idle, mode := .faulted
                     reply := .cycleResult .aborted } ∧
        t.errInfo.extractLsb' 0 16 = 1 ∧ t.errInfo.extractLsb' 16 16 = BitVec.ofNat 16 k ∧
        t.bus.oe = false ∧ t.bus.lat = false ∧ t.bus.clk = false ∧
        (∀ i, t.bus.addr.getLsbD i =
          if i < s.cfg.addressLines ∧ i < 16 then row.getLsbD i else s.bus.addr.getLsbD i) ∧
        t.bus.pinsActive = s.bus.pinsActive ∧ t.bus.now = deadline)

/-- 42_sequencer.md R152, asked for on its own (log 5); another result is reserved (30_encoding.md
R90). -/
def Obligations.OnCycleCompleteRecordsTheResult : Prop :=
  ∀ (result : BitVec 8) (s : State), s.agent = .adapter →
    (result = 1 → exec (.onCycleComplete result) s =
      .next { s with lastResult := .complete, reply := .silent }) ∧
    (result = 3 → exec (.onCycleComplete result) s =
      .next { s with lastResult := .aborted, reply := .silent }) ∧
    (result ≠ 1 → result ≠ 3 → exec (.onCycleComplete result) s =
      .next { s with reply := .response .refused 0 })

/-! ## Frame buffer -/

/-- 43_framebuffer.md R160, 20_memory.md R63, asked for on its own (log 5): the words of a row and plane
of the active buffer; nothing is written. While the registers describe another grid than the buffer's the
words are free values (log 26). -/
def Obligations.GetActiveRowPlaneReadsTheActiveBuffer : Prop :=
  ∀ (plane : BitVec 8) (row : BitVec 16) (s : State), s.agent = .scheduler →
    (row.toNat < s.cfg.panelRows.toNat / 2 ∧ plane.toNat < s.cfg.colorDepth.toNat →
      ∃ words : List (BitVec 6),
        exec (.getActiveRowPlane plane row) s = .next { s with reply := .rowPlane words } ∧
        words.length = s.cfg.rowPixels.toNat ∧
        (s.fb.shape = s.cfg.shape → ∀ (x : Nat) (word : BitVec 6), words[x]? = some word →
          let value (lower : Bool) (c : Channel) : Bool :=
            (s.fb.read s.cfg.colorDepth.toNat s.activeBuf
              (row.toNat + if lower then s.cfg.panelRows.toNat / 2 else 0) x c).getLsbD plane.toNat
          ∀ i, word.getLsbD i =
            if i = 0 then value false .red else if i = 1 then value true .red
            else if i = 2 then value false .green else if i = 3 then value true .green
            else if i = 4 then value false .blue else if i = 5 then value true .blue else false)) ∧
    (¬ (row.toNat < s.cfg.panelRows.toNat / 2 ∧ plane.toNat < s.cfg.colorDepth.toNat) →
      exec (.getActiveRowPlane plane row) s = .next { s with reply := .response .refused 0 })

/-- 43_framebuffer.md R162. -/
def Obligations.SwapBuffersOnlyLeavesARequest : Prop :=
  ∀ s : State, s.agent = .producer →
    (s.mode = .configured ∨ s.mode = .running ∨ s.mode = .stopped →
      exec .swapBuffers s = .next { s with swapPending := true, reply := .response .ok 0 }) ∧
    (s.mode = .reset ∨ s.mode = .faulted →
      exec .swapBuffers s = .next { s with reply := .response .refused 0 })

/-- 43_framebuffer.md R164, 20_memory.md R61: one channel value of the inactive buffer; every other
location reads as before. -/
def Obligations.FbWriteStoresOneInactiveValue : Prop :=
  ∀ (ch : BitVec 8) (y x v : BitVec 16) (s : State), s.agent = .producer →
    (s.mode = .configured ∨ s.mode = .running ∨ s.mode = .stopped) →
    ((2 < ch.toNat ∨ s.cfg.panelRows.toNat ≤ y.toNat ∨ s.cfg.rowPixels.toNat ≤ x.toNat ∨
        2 ^ s.cfg.colorDepth.toNat ≤ v.toNat ∨ s.swapPending = true) →
      exec (.fbWrite ch y x v) s = .next { s with reply := .response .refused 0 }) ∧
    (∀ c : Channel, ch.toNat = c.number → y.toNat < s.cfg.panelRows.toNat →
      x.toNat < s.cfg.rowPixels.toNat → v.toNat < 2 ^ s.cfg.colorDepth.toNat → s.swapPending = false →
      ∃ t, exec (.fbWrite ch y x v) s = .next t ∧
        t = { s with fb := t.fb, reply := .response .ok 0 } ∧
        t.fb.shape = s.fb.shape ∧ t.fb.epoch = s.fb.epoch ∧
        t.fb.read s.cfg.colorDepth.toNat (!s.activeBuf) y.toNat x.toNat c = v ∧
        ∀ (depth : Nat) (b : Bool) (y' x' : Nat) (c' : Channel), y' < 65536 → x' < 65536 →
          ¬ (b = (!s.activeBuf) ∧ y' = y.toNat ∧ x' = x.toNat ∧ c' = c) →
          t.fb.read depth b y' x' c' = s.fb.read depth b y' x' c')

/-- 20_memory.md R67: no step of a block that has been initialised writes the active buffer, but for a
reset. -/
def Obligations.ActiveBufferIsNeverWritten : Prop :=
  ∀ s t : State, step s = .next t → s.mode ≠ .reset → ¬ s.nextIsReset →
    ∀ (depth : Nat) (y x : Nat) (c : Channel), y < 65536 → x < 65536 →
      t.fb.read depth s.activeBuf y x c = s.fb.read depth s.activeBuf y x c

/-- Log 12: the frame buffer's canonical form, for every step. -/
def Obligations.EveryStepKeepsTheMemoryCanonical : Prop :=
  State.reset.fb.wf ∧ ∀ s t : State, step s = .next t → s.fb.wf → t.fb.wf

/-! ## Whole-machine rules -/

/-- 20_memory.md R69, 70_reset_and_hazards.md R227: configuration is frozen outside `Reset`. -/
def Obligations.ConfigurationIsFrozen : Prop :=
  ∀ s t : State, step s = .next t → s.mode ≠ .reset → ¬ s.nextIsReset → t.cfg = s.cfg

/-- 60_exceptions.md R196: the error registers, once written, are changed only by a reset. -/
def Obligations.FirstErrorStays : Prop :=
  ∀ s t : State, step s = .next t → s.errCode ≠ .noError → ¬ s.nextIsReset →
    t.errCode = s.errCode ∧ t.errInfo = s.errInfo

/-- 44_lifecycle.md R172: the transitions of `MODE`, for the steps of a run. -/
def Obligations.ModeChangesOnlyByItsTransitions : Prop :=
  ∀ s t : State, step s = .next t → (∀ r, s.inbox.head? = some r → r.isRunStep = true) →
    t.mode ≠ s.mode →
    (s.mode = .reset ∧ t.mode = .configured ∧ s.nextIsInit) ∨
    (s.mode = .reset ∧ t.mode = .faulted ∧ s.nextIsInit) ∨
    (s.mode = .configured ∧ t.mode = .running ∧ s.nextIsStart) ∨
    (s.mode = .running ∧ t.mode = .stopped ∧ s.shutdownReq = true ∧
      (s.fsm = .blanking ∨ s.fsm = .idle)) ∨
    (s.mode = .running ∧ t.mode = .faulted ∧ s.fsm = .shifting ∧ t.lastResult = .aborted) ∨
    (s.mode = .stopped ∧ t.mode = .running ∧ s.nextIsStart) ∨
    (t.mode = .reset ∧ s.nextIsReset)

/-- 10_state.md R39, 44_lifecycle.md R173: while no pin is active nothing is recorded, and only `START`
in `Configured` or `Stopped` activates the pins. -/
def Obligations.OnlyStartActivatesPins : Prop :=
  ∀ s t : State, step s = .next t → s.bus.pinsActive = false →
    (t.bus.pinsActive = false ∧ t.bus.wave = s.bus.wave) ∨
    (t.bus.pinsActive = true ∧ s.nextIsStart ∧ t.mode = .running ∧
      (s.mode = .configured ∨ s.mode = .stopped))

/-- 10_state.md R41, 00_scope.md R10: time never goes back and the trace only grows, in time order. -/
def Obligations.TraceOnlyGrows : Prop :=
  ∀ s t : State, step s = .next t →
    s.bus.now ≤ t.bus.now ∧
    ∃ new : List Event, t.bus.wave = new ++ s.bus.wave ∧
      ∀ e ∈ new, s.bus.now ≤ e.time ∧ e.time ≤ t.bus.now

/-- 70_reset_and_hazards.md R230: commands of the host and the producer take no time, and but for
`START` they drive no line; `START` drives none to 1. -/
def Obligations.CommandsTakeNoTime : Prop :=
  ∀ (i : Instr) (s t : State), (s.agent = .host ∨ s.agent = .producer) → exec i s = .next t →
    t.bus.now = s.bus.now ∧ (i ≠ .start → t.bus.wave = s.bus.wave) ∧
    ∃ new : List Event, t.bus.wave = new ++ s.bus.wave ∧ ∀ e ∈ new, e.value = false

/-- Every step of a run keeps the invariant (42_sequencer.md R154 (a), (b), (c), (g); 41_scheduler.md
R126; 40_configuration.md R111; 10_state.md R29 to R32, R38 to R40; log 12), from every state that
meets it. -/
def Obligations.EveryStepKeepsTheInvariant : Prop :=
  ∀ s t : State, s.Inv → step s = .next t → t.Inv

/-- The reset state meets the invariant. -/
def Obligations.ResetMeetsTheInvariant : Prop := State.reset.Inv

/-- 44_lifecycle.md R175, 70_reset_and_hazards.md R232: a run that stops has reached the good end, with
the requests of the producer kept. -/
def Obligations.StoppingReachesTheGoodEnd : Prop :=
  ∀ s t : State, s.Inv → step s = .next t → s.mode = .running → t.mode = .stopped →
    t.GoodEnd ∧ t.bus.pinsActive = true ∧ t.shutdownReq = false ∧ t.errCode = .noError ∧
    t.fb = s.fb ∧ t.activeBuf = s.activeBuf ∧ t.swapPending = s.swapPending ∧
    t.bus.data = s.bus.data ∧ t.bus.addr = s.bus.addr

/-- 42_sequencer.md R155, 41_scheduler.md R135 (environment inputs of log 3, autonomous steps of log 4):
from any state of a run in `Idle`, five steps with a ready buffer and stalls within `V` are one whole
cycle: the events of the rule's table, each at its time, with the words of the active buffer, and the
rule's length, its gap and its stalls. -/
def Obligations.FiveStepsAreOneCycle : Prop :=
  ∀ s : State, s.Inv → s.mode = .running → s.fsm = .idle → s.inbox = [] → s.shutdownReq = false →
    s.env.ready = true →
    (∀ k, k < s.cfg.rowPixels.toNat / 32 →
      s.env.stallOf k ≤ s.cfg.fixedOverheadNs.toNat * s.cfg.baseClockMhz.toNat) →
    let start := s.bus.now + s.env.gap
    let complete := start + ((List.range (s.cfg.rowPixels.toNat / 32)).map s.env.stallOf).sum
      + s.cfg.rowPixels.toNat * (1000 * s.cfg.clockDivider.toNat)
    let rise := complete + s.cfg.latchToClockDelayNs.toNat * s.cfg.baseClockMhz.toNat
    let fall := rise + s.cfg.latchPulseWidthNs.toNat * s.cfg.baseClockMhz.toNat
    let off := fall + s.cfg.onUnitNs.toNat * s.cfg.baseClockMhz.toNat
    ∃ t, Sys2Proof.core.run 5 s = .next t ∧
      t.mode = .running ∧ t.fsm = .idle ∧ t.lastResult = .complete ∧ t.errCode = .noError ∧
      t.pos = s.pos.succ (s.cfg.panelRows.toNat / 2) s.cfg.colorDepth.toNat ∧
      t.curRow = s.pos.row ∧ t.curPlane = s.pos.plane ∧ t.cfg = s.cfg ∧ t.fb = s.fb ∧
      t.bus.oe = false ∧ t.bus.lat = false ∧ t.bus.clk = false ∧
      (∀ i, t.bus.addr.getLsbD i =
        if i < s.cfg.addressLines ∧ i < 16 then s.pos.row.getLsbD i else s.bus.addr.getLsbD i) ∧
      risingClocks t.bus.wave = risingClocks s.bus.wave + s.cfg.rowPixels.toNat ∧
      t.bus.now = off ∧
      (∀ x, x < s.cfg.rowPixels.toNat → t.rowbuf.word x =
        s.fb.pixelWord s.cfg.colorDepth.toNat (s.cfg.panelRows.toNat / 2) t.activeBuf s.pos.row.toNat
          s.pos.plane.toNat x) ∧
      t.bus.wave =
        (addrEvents start s.cfg.addressLines s.bus.addr s.pos.row
          ++ trainEvents start (500 * s.cfg.clockDivider.toNat) s.env.stallOf t.rowbuf.word false
              s.bus.data s.cfg.rowPixels.toNat
          ++ ([{ time := rise, line := .lat, value := true }, { time := fall, line := .lat, value := false },
              { time := fall, line := .oe, value := true },
              { time := off, line := .oe, value := false }] : List Event)).reverse
          ++ s.bus.wave

/-- 00_scope.md R12, 42_sequencer.md R143, R144, R145, R151, 20_memory.md R63 (environment inputs of log 3,
autonomous steps of log 4, the observer of log 23): the observer, whatever its `W` positions held before,
ends the Latching phase with the row buffer in its output register, column 0 at position `W − 1`, its light
on, and lights on the row pair of `ADDR` exactly the LEDs whose bit is 1; and from any state of a run in
`Idle`, four steps show row pair `CUR_ROW` with the bits of plane `CUR_PLANE` of the active buffer. -/
def Obligations.PanelShowsTheRowBuffer : Prop :=
  (∀ (s t u : State) (p : Panel), s.agent = .scheduler → s.mode = .running → s.fsm = .shifting →
    s.trainBusy = false → s.bus.pinsActive = true → s.bus.oe = false → s.bus.lat = false →
    s.bus.clk = false → s.rowbuf.words.length = s.cfg.rowPixels.toNat →
    p.shift.length = s.cfg.rowPixels.toNat →
    p.levels = { oe := false, lat := false, clk := false } → p.data = s.bus.data → p.addr = s.bus.addr →
    exec .shiftDone s = .next t → t.fsm = .latching → exec .latchDone t = .next u →
    ∃ new : List Event, u.bus.wave = new ++ s.bus.wave ∧
      (p.observe s.cfg.rowPixels.toNat new).out = s.rowbuf.words.reverse ∧
      (p.observe s.cfg.rowPixels.toNat new).levels = { oe := true, lat := false, clk := false } ∧
      ∀ led : Led, (p.observe s.cfg.rowPixels.toNat new).lit led = true ↔
        led.pair = s.bus.addr ∧ led.position < s.cfg.rowPixels.toNat ∧
          (s.rowbuf.word (s.cfg.rowPixels.toNat - 1 - led.position)).getLsbD led.bit = true) ∧
  ∀ (s : State) (p : Panel), s.Inv → s.mode = .running → s.fsm = .idle → s.inbox = [] →
    s.shutdownReq = false → s.env.ready = true →
    (∀ k, k < s.cfg.rowPixels.toNat / 32 →
      s.env.stallOf k ≤ s.cfg.fixedOverheadNs.toNat * s.cfg.baseClockMhz.toNat) →
    p.shift.length = s.cfg.rowPixels.toNat →
    p.levels = { oe := false, lat := false, clk := false } → p.data = s.bus.data → p.addr = s.bus.addr →
    ∃ t, Sys2Proof.core.run 4 s = .next t ∧ t.fsm = .blanking ∧
      t.curRow = s.pos.row ∧ t.curPlane = s.pos.plane ∧
      ∃ new : List Event, t.bus.wave = new ++ s.bus.wave ∧
        ∀ led : Led, (p.observe s.cfg.rowPixels.toNat new).lit led = true ↔
          led.pair = t.curRow ∧ led.position < s.cfg.rowPixels.toNat ∧
            (s.fb.pixelWord s.cfg.colorDepth.toNat (s.cfg.panelRows.toNat / 2) t.activeBuf t.curRow.toNat
              t.curPlane.toNat (s.cfg.rowPixels.toNat - 1 - led.position)).getLsbD led.bit = true
end

