-- ==== Sys2Proof/Laws/State.lean ====
section
/-! SUPPORT. One lemma per field per named update of State, each true by unfolding, so that no later
proof unfolds a record update. -/

namespace Sys2Proof.Machine

variable (s : State)

/-! ## `State.respond` -/

@[simp] theorem State.respond_cfg (st : Status) (v : Word) : (s.respond st v).cfg = s.cfg := rfl
@[simp] theorem State.respond_mode (st : Status) (v : Word) : (s.respond st v).mode = s.mode := rfl
@[simp] theorem State.respond_errCode (st : Status) (v : Word) : (s.respond st v).errCode = s.errCode := rfl
@[simp] theorem State.respond_errInfo (st : Status) (v : Word) : (s.respond st v).errInfo = s.errInfo := rfl
@[simp] theorem State.respond_fsm (st : Status) (v : Word) : (s.respond st v).fsm = s.fsm := rfl
@[simp] theorem State.respond_pos (st : Status) (v : Word) : (s.respond st v).pos = s.pos := rfl
@[simp] theorem State.respond_curRow (st : Status) (v : Word) : (s.respond st v).curRow = s.curRow := rfl
@[simp] theorem State.respond_curPlane (st : Status) (v : Word) : (s.respond st v).curPlane = s.curPlane := rfl
@[simp] theorem State.respond_lastResult (st : Status) (v : Word) : (s.respond st v).lastResult = s.lastResult := rfl
@[simp] theorem State.respond_activeBuf (st : Status) (v : Word) : (s.respond st v).activeBuf = s.activeBuf := rfl
@[simp] theorem State.respond_swapPending (st : Status) (v : Word) : (s.respond st v).swapPending = s.swapPending := rfl
@[simp] theorem State.respond_shutdownReq (st : Status) (v : Word) : (s.respond st v).shutdownReq = s.shutdownReq := rfl
@[simp] theorem State.respond_trainBusy (st : Status) (v : Word) : (s.respond st v).trainBusy = s.trainBusy := rfl
@[simp] theorem State.respond_divCfg (st : Status) (v : Word) : (s.respond st v).divCfg = s.divCfg := rfl
@[simp] theorem State.respond_bus (st : Status) (v : Word) : (s.respond st v).bus = s.bus := rfl
@[simp] theorem State.respond_rowbuf (st : Status) (v : Word) : (s.respond st v).rowbuf = s.rowbuf := rfl
@[simp] theorem State.respond_fb (st : Status) (v : Word) : (s.respond st v).fb = s.fb := rfl
@[simp] theorem State.respond_env (st : Status) (v : Word) : (s.respond st v).env = s.env := rfl
@[simp] theorem State.respond_inbox (st : Status) (v : Word) : (s.respond st v).inbox = s.inbox := rfl
@[simp] theorem State.respond_agent (st : Status) (v : Word) : (s.respond st v).agent = s.agent := rfl
@[simp] theorem State.respond_reply (st : Status) (v : Word) : (s.respond st v).reply = .response st v := rfl

/-! ## `State.quiet` -/

@[simp] theorem State.quiet_cfg : (s.quiet).cfg = s.cfg := rfl
@[simp] theorem State.quiet_mode : (s.quiet).mode = s.mode := rfl
@[simp] theorem State.quiet_errCode : (s.quiet).errCode = s.errCode := rfl
@[simp] theorem State.quiet_errInfo : (s.quiet).errInfo = s.errInfo := rfl
@[simp] theorem State.quiet_fsm : (s.quiet).fsm = s.fsm := rfl
@[simp] theorem State.quiet_pos : (s.quiet).pos = s.pos := rfl
@[simp] theorem State.quiet_curRow : (s.quiet).curRow = s.curRow := rfl
@[simp] theorem State.quiet_curPlane : (s.quiet).curPlane = s.curPlane := rfl
@[simp] theorem State.quiet_lastResult : (s.quiet).lastResult = s.lastResult := rfl
@[simp] theorem State.quiet_activeBuf : (s.quiet).activeBuf = s.activeBuf := rfl
@[simp] theorem State.quiet_swapPending : (s.quiet).swapPending = s.swapPending := rfl
@[simp] theorem State.quiet_shutdownReq : (s.quiet).shutdownReq = s.shutdownReq := rfl
@[simp] theorem State.quiet_trainBusy : (s.quiet).trainBusy = s.trainBusy := rfl
@[simp] theorem State.quiet_divCfg : (s.quiet).divCfg = s.divCfg := rfl
@[simp] theorem State.quiet_bus : (s.quiet).bus = s.bus := rfl
@[simp] theorem State.quiet_rowbuf : (s.quiet).rowbuf = s.rowbuf := rfl
@[simp] theorem State.quiet_fb : (s.quiet).fb = s.fb := rfl
@[simp] theorem State.quiet_env : (s.quiet).env = s.env := rfl
@[simp] theorem State.quiet_inbox : (s.quiet).inbox = s.inbox := rfl
@[simp] theorem State.quiet_agent : (s.quiet).agent = s.agent := rfl
@[simp] theorem State.quiet_reply : (s.quiet).reply = .silent := rfl

/-! ## `State.refuse` -/

@[simp] theorem State.refuse_cfg : (s.refuse).cfg = s.cfg := rfl
@[simp] theorem State.refuse_mode : (s.refuse).mode = s.mode := rfl
@[simp] theorem State.refuse_errCode : (s.refuse).errCode = s.errCode := rfl
@[simp] theorem State.refuse_errInfo : (s.refuse).errInfo = s.errInfo := rfl
@[simp] theorem State.refuse_fsm : (s.refuse).fsm = s.fsm := rfl
@[simp] theorem State.refuse_pos : (s.refuse).pos = s.pos := rfl
@[simp] theorem State.refuse_curRow : (s.refuse).curRow = s.curRow := rfl
@[simp] theorem State.refuse_curPlane : (s.refuse).curPlane = s.curPlane := rfl
@[simp] theorem State.refuse_lastResult : (s.refuse).lastResult = s.lastResult := rfl
@[simp] theorem State.refuse_activeBuf : (s.refuse).activeBuf = s.activeBuf := rfl
@[simp] theorem State.refuse_swapPending : (s.refuse).swapPending = s.swapPending := rfl
@[simp] theorem State.refuse_shutdownReq : (s.refuse).shutdownReq = s.shutdownReq := rfl
@[simp] theorem State.refuse_trainBusy : (s.refuse).trainBusy = s.trainBusy := rfl
@[simp] theorem State.refuse_divCfg : (s.refuse).divCfg = s.divCfg := rfl
@[simp] theorem State.refuse_bus : (s.refuse).bus = s.bus := rfl
@[simp] theorem State.refuse_rowbuf : (s.refuse).rowbuf = s.rowbuf := rfl
@[simp] theorem State.refuse_fb : (s.refuse).fb = s.fb := rfl
@[simp] theorem State.refuse_env : (s.refuse).env = s.env := rfl
@[simp] theorem State.refuse_inbox : (s.refuse).inbox = s.inbox := rfl
@[simp] theorem State.refuse_agent : (s.refuse).agent = s.agent := rfl
@[simp] theorem State.refuse_reply : (s.refuse).reply = .response .refused 0 := rfl

/-! ## `State.cycleComplete` -/

@[simp] theorem State.cycleComplete_cfg (r : CycleResult) : (s.cycleComplete r).cfg = s.cfg := rfl
@[simp] theorem State.cycleComplete_mode (r : CycleResult) : (s.cycleComplete r).mode = s.mode := rfl
@[simp] theorem State.cycleComplete_errCode (r : CycleResult) : (s.cycleComplete r).errCode = s.errCode := rfl
@[simp] theorem State.cycleComplete_errInfo (r : CycleResult) : (s.cycleComplete r).errInfo = s.errInfo := rfl
@[simp] theorem State.cycleComplete_fsm (r : CycleResult) : (s.cycleComplete r).fsm = s.fsm := rfl
@[simp] theorem State.cycleComplete_pos (r : CycleResult) : (s.cycleComplete r).pos = s.pos := rfl
@[simp] theorem State.cycleComplete_curRow (r : CycleResult) : (s.cycleComplete r).curRow = s.curRow := rfl
@[simp] theorem State.cycleComplete_curPlane (r : CycleResult) : (s.cycleComplete r).curPlane = s.curPlane := rfl
@[simp] theorem State.cycleComplete_lastResult (r : CycleResult) : (s.cycleComplete r).lastResult = r := rfl
@[simp] theorem State.cycleComplete_activeBuf (r : CycleResult) : (s.cycleComplete r).activeBuf = s.activeBuf := rfl
@[simp] theorem State.cycleComplete_swapPending (r : CycleResult) : (s.cycleComplete r).swapPending = s.swapPending := rfl
@[simp] theorem State.cycleComplete_shutdownReq (r : CycleResult) : (s.cycleComplete r).shutdownReq = s.shutdownReq := rfl
@[simp] theorem State.cycleComplete_trainBusy (r : CycleResult) : (s.cycleComplete r).trainBusy = s.trainBusy := rfl
@[simp] theorem State.cycleComplete_divCfg (r : CycleResult) : (s.cycleComplete r).divCfg = s.divCfg := rfl
@[simp] theorem State.cycleComplete_bus (r : CycleResult) : (s.cycleComplete r).bus = s.bus := rfl
@[simp] theorem State.cycleComplete_rowbuf (r : CycleResult) : (s.cycleComplete r).rowbuf = s.rowbuf := rfl
@[simp] theorem State.cycleComplete_fb (r : CycleResult) : (s.cycleComplete r).fb = s.fb := rfl
@[simp] theorem State.cycleComplete_env (r : CycleResult) : (s.cycleComplete r).env = s.env := rfl
@[simp] theorem State.cycleComplete_inbox (r : CycleResult) : (s.cycleComplete r).inbox = s.inbox := rfl
@[simp] theorem State.cycleComplete_agent (r : CycleResult) : (s.cycleComplete r).agent = s.agent := rfl
@[simp] theorem State.cycleComplete_reply (r : CycleResult) : (s.cycleComplete r).reply = s.reply := rfl

/-! ## `State.programDivider` -/

@[simp] theorem State.programDivider_cfg (d : Word) : (s.programDivider d).cfg = s.cfg := rfl
@[simp] theorem State.programDivider_mode (d : Word) : (s.programDivider d).mode = s.mode := rfl
@[simp] theorem State.programDivider_errCode (d : Word) : (s.programDivider d).errCode = s.errCode := rfl
@[simp] theorem State.programDivider_errInfo (d : Word) : (s.programDivider d).errInfo = s.errInfo := rfl
@[simp] theorem State.programDivider_fsm (d : Word) : (s.programDivider d).fsm = s.fsm := rfl
@[simp] theorem State.programDivider_pos (d : Word) : (s.programDivider d).pos = s.pos := rfl
@[simp] theorem State.programDivider_curRow (d : Word) : (s.programDivider d).curRow = s.curRow := rfl
@[simp] theorem State.programDivider_curPlane (d : Word) : (s.programDivider d).curPlane = s.curPlane := rfl
@[simp] theorem State.programDivider_lastResult (d : Word) : (s.programDivider d).lastResult = s.lastResult := rfl
@[simp] theorem State.programDivider_activeBuf (d : Word) : (s.programDivider d).activeBuf = s.activeBuf := rfl
@[simp] theorem State.programDivider_swapPending (d : Word) : (s.programDivider d).swapPending = s.swapPending := rfl
@[simp] theorem State.programDivider_shutdownReq (d : Word) : (s.programDivider d).shutdownReq = s.shutdownReq := rfl
@[simp] theorem State.programDivider_trainBusy (d : Word) : (s.programDivider d).trainBusy = s.trainBusy := rfl
@[simp] theorem State.programDivider_divCfg (d : Word) : (s.programDivider d).divCfg = d := rfl
@[simp] theorem State.programDivider_bus (d : Word) : (s.programDivider d).bus = s.bus := rfl
@[simp] theorem State.programDivider_rowbuf (d : Word) : (s.programDivider d).rowbuf = s.rowbuf := rfl
@[simp] theorem State.programDivider_fb (d : Word) : (s.programDivider d).fb = s.fb := rfl
@[simp] theorem State.programDivider_env (d : Word) : (s.programDivider d).env = s.env := rfl
@[simp] theorem State.programDivider_inbox (d : Word) : (s.programDivider d).inbox = s.inbox := rfl
@[simp] theorem State.programDivider_agent (d : Word) : (s.programDivider d).agent = s.agent := rfl
@[simp] theorem State.programDivider_reply (d : Word) : (s.programDivider d).reply = s.reply := rfl

/-! ## `State.haltOutput` -/

@[simp] theorem State.haltOutput_cfg : (s.haltOutput).cfg = s.cfg := rfl
@[simp] theorem State.haltOutput_mode : (s.haltOutput).mode = s.mode := rfl
@[simp] theorem State.haltOutput_errCode : (s.haltOutput).errCode = s.errCode := rfl
@[simp] theorem State.haltOutput_errInfo : (s.haltOutput).errInfo = s.errInfo := rfl
@[simp] theorem State.haltOutput_fsm : (s.haltOutput).fsm = s.fsm := rfl
@[simp] theorem State.haltOutput_pos : (s.haltOutput).pos = s.pos := rfl
@[simp] theorem State.haltOutput_curRow : (s.haltOutput).curRow = s.curRow := rfl
@[simp] theorem State.haltOutput_curPlane : (s.haltOutput).curPlane = s.curPlane := rfl
@[simp] theorem State.haltOutput_lastResult : (s.haltOutput).lastResult = .aborted := rfl
@[simp] theorem State.haltOutput_activeBuf : (s.haltOutput).activeBuf = s.activeBuf := rfl
@[simp] theorem State.haltOutput_swapPending : (s.haltOutput).swapPending = s.swapPending := rfl
@[simp] theorem State.haltOutput_shutdownReq : (s.haltOutput).shutdownReq = s.shutdownReq := rfl
@[simp] theorem State.haltOutput_trainBusy : (s.haltOutput).trainBusy = false := rfl
@[simp] theorem State.haltOutput_divCfg : (s.haltOutput).divCfg = s.divCfg := rfl
@[simp] theorem State.haltOutput_bus : (s.haltOutput).bus = s.bus.safeLevels := rfl
@[simp] theorem State.haltOutput_rowbuf : (s.haltOutput).rowbuf = s.rowbuf := rfl
@[simp] theorem State.haltOutput_fb : (s.haltOutput).fb = s.fb := rfl
@[simp] theorem State.haltOutput_env : (s.haltOutput).env = s.env := rfl
@[simp] theorem State.haltOutput_inbox : (s.haltOutput).inbox = s.inbox := rfl
@[simp] theorem State.haltOutput_agent : (s.haltOutput).agent = s.agent := rfl
@[simp] theorem State.haltOutput_reply : (s.haltOutput).reply = s.reply := rfl

/-! ## `State.advancePos` -/

@[simp] theorem State.advancePos_cfg : (s.advancePos).cfg = s.cfg := rfl
@[simp] theorem State.advancePos_mode : (s.advancePos).mode = s.mode := rfl
@[simp] theorem State.advancePos_errCode : (s.advancePos).errCode = s.errCode := rfl
@[simp] theorem State.advancePos_errInfo : (s.advancePos).errInfo = s.errInfo := rfl
@[simp] theorem State.advancePos_fsm : (s.advancePos).fsm = s.fsm := rfl
@[simp] theorem State.advancePos_pos : (s.advancePos).pos = s.pos.succ s.cfg.rowAddresses s.cfg.colorDepth.toNat := rfl
@[simp] theorem State.advancePos_curRow : (s.advancePos).curRow = s.curRow := rfl
@[simp] theorem State.advancePos_curPlane : (s.advancePos).curPlane = s.curPlane := rfl
@[simp] theorem State.advancePos_lastResult : (s.advancePos).lastResult = s.lastResult := rfl
@[simp] theorem State.advancePos_activeBuf : (s.advancePos).activeBuf = s.activeBuf := rfl
@[simp] theorem State.advancePos_swapPending : (s.advancePos).swapPending = s.swapPending := rfl
@[simp] theorem State.advancePos_shutdownReq : (s.advancePos).shutdownReq = s.shutdownReq := rfl
@[simp] theorem State.advancePos_trainBusy : (s.advancePos).trainBusy = s.trainBusy := rfl
@[simp] theorem State.advancePos_divCfg : (s.advancePos).divCfg = s.divCfg := rfl
@[simp] theorem State.advancePos_bus : (s.advancePos).bus = s.bus := rfl
@[simp] theorem State.advancePos_rowbuf : (s.advancePos).rowbuf = s.rowbuf := rfl
@[simp] theorem State.advancePos_fb : (s.advancePos).fb = s.fb := rfl
@[simp] theorem State.advancePos_env : (s.advancePos).env = s.env := rfl
@[simp] theorem State.advancePos_inbox : (s.advancePos).inbox = s.inbox := rfl
@[simp] theorem State.advancePos_agent : (s.advancePos).agent = s.agent := rfl
@[simp] theorem State.advancePos_reply : (s.advancePos).reply = s.reply := rfl

/-! ## `State.skipCycle` -/

@[simp] theorem State.skipCycle_cfg : (s.skipCycle).cfg = s.cfg := rfl
@[simp] theorem State.skipCycle_mode : (s.skipCycle).mode = s.mode := rfl
@[simp] theorem State.skipCycle_errCode : (s.skipCycle).errCode = s.errCode := rfl
@[simp] theorem State.skipCycle_errInfo : (s.skipCycle).errInfo = s.errInfo := rfl
@[simp] theorem State.skipCycle_fsm : (s.skipCycle).fsm = .idle := rfl
@[simp] theorem State.skipCycle_pos : (s.skipCycle).pos = s.pos.succ s.cfg.rowAddresses s.cfg.colorDepth.toNat := rfl
@[simp] theorem State.skipCycle_curRow : (s.skipCycle).curRow = s.curRow := rfl
@[simp] theorem State.skipCycle_curPlane : (s.skipCycle).curPlane = s.curPlane := rfl
@[simp] theorem State.skipCycle_lastResult : (s.skipCycle).lastResult = .skipped := rfl
@[simp] theorem State.skipCycle_activeBuf : (s.skipCycle).activeBuf = s.activeBuf := rfl
@[simp] theorem State.skipCycle_swapPending : (s.skipCycle).swapPending = s.swapPending := rfl
@[simp] theorem State.skipCycle_shutdownReq : (s.skipCycle).shutdownReq = s.shutdownReq := rfl
@[simp] theorem State.skipCycle_trainBusy : (s.skipCycle).trainBusy = s.trainBusy := rfl
@[simp] theorem State.skipCycle_divCfg : (s.skipCycle).divCfg = s.divCfg := rfl
@[simp] theorem State.skipCycle_bus : (s.skipCycle).bus = s.bus := rfl
@[simp] theorem State.skipCycle_rowbuf : (s.skipCycle).rowbuf = s.rowbuf := rfl
@[simp] theorem State.skipCycle_fb : (s.skipCycle).fb = s.fb := rfl
@[simp] theorem State.skipCycle_env : (s.skipCycle).env = s.env := rfl
@[simp] theorem State.skipCycle_inbox : (s.skipCycle).inbox = s.inbox := rfl
@[simp] theorem State.skipCycle_agent : (s.skipCycle).agent = s.agent := rfl
@[simp] theorem State.skipCycle_reply : (s.skipCycle).reply = s.reply := rfl

/-! ## `State.stop` -/

@[simp] theorem State.stop_cfg : (s.stop).cfg = s.cfg := rfl
@[simp] theorem State.stop_mode : (s.stop).mode = .stopped := rfl
@[simp] theorem State.stop_errCode : (s.stop).errCode = s.errCode := rfl
@[simp] theorem State.stop_errInfo : (s.stop).errInfo = s.errInfo := rfl
@[simp] theorem State.stop_fsm : (s.stop).fsm = s.fsm := rfl
@[simp] theorem State.stop_pos : (s.stop).pos = s.pos := rfl
@[simp] theorem State.stop_curRow : (s.stop).curRow = s.curRow := rfl
@[simp] theorem State.stop_curPlane : (s.stop).curPlane = s.curPlane := rfl
@[simp] theorem State.stop_lastResult : (s.stop).lastResult = s.lastResult := rfl
@[simp] theorem State.stop_activeBuf : (s.stop).activeBuf = s.activeBuf := rfl
@[simp] theorem State.stop_swapPending : (s.stop).swapPending = s.swapPending := rfl
@[simp] theorem State.stop_shutdownReq : (s.stop).shutdownReq = false := rfl
@[simp] theorem State.stop_trainBusy : (s.stop).trainBusy = s.trainBusy := rfl
@[simp] theorem State.stop_divCfg : (s.stop).divCfg = s.divCfg := rfl
@[simp] theorem State.stop_bus : (s.stop).bus = s.bus := rfl
@[simp] theorem State.stop_rowbuf : (s.stop).rowbuf = s.rowbuf := rfl
@[simp] theorem State.stop_fb : (s.stop).fb = s.fb := rfl
@[simp] theorem State.stop_env : (s.stop).env = s.env := rfl
@[simp] theorem State.stop_inbox : (s.stop).inbox = s.inbox := rfl
@[simp] theorem State.stop_agent : (s.stop).agent = s.agent := rfl
@[simp] theorem State.stop_reply : (s.stop).reply = s.reply := rfl

/-! ## `State.beginCycle` -/

@[simp] theorem State.beginCycle_cfg : (s.beginCycle).cfg = s.cfg := rfl
@[simp] theorem State.beginCycle_mode : (s.beginCycle).mode = s.mode := rfl
@[simp] theorem State.beginCycle_errCode : (s.beginCycle).errCode = s.errCode := rfl
@[simp] theorem State.beginCycle_errInfo : (s.beginCycle).errInfo = s.errInfo := rfl
@[simp] theorem State.beginCycle_fsm : (s.beginCycle).fsm = .selectPlane := rfl
@[simp] theorem State.beginCycle_pos : (s.beginCycle).pos = s.pos := rfl
@[simp] theorem State.beginCycle_curRow : (s.beginCycle).curRow = s.pos.row := rfl
@[simp] theorem State.beginCycle_curPlane : (s.beginCycle).curPlane = s.pos.plane := rfl
@[simp] theorem State.beginCycle_lastResult : (s.beginCycle).lastResult = s.lastResult := rfl
@[simp] theorem State.beginCycle_activeBuf : (s.beginCycle).activeBuf = s.activeBuf := rfl
@[simp] theorem State.beginCycle_swapPending : (s.beginCycle).swapPending = s.swapPending := rfl
@[simp] theorem State.beginCycle_shutdownReq : (s.beginCycle).shutdownReq = s.shutdownReq := rfl
@[simp] theorem State.beginCycle_trainBusy : (s.beginCycle).trainBusy = s.trainBusy := rfl
@[simp] theorem State.beginCycle_divCfg : (s.beginCycle).divCfg = s.divCfg := rfl
@[simp] theorem State.beginCycle_bus : (s.beginCycle).bus = s.bus := rfl
@[simp] theorem State.beginCycle_rowbuf : (s.beginCycle).rowbuf = s.rowbuf := rfl
@[simp] theorem State.beginCycle_fb : (s.beginCycle).fb = s.fb := rfl
@[simp] theorem State.beginCycle_env : (s.beginCycle).env = s.env := rfl
@[simp] theorem State.beginCycle_inbox : (s.beginCycle).inbox = s.inbox := rfl
@[simp] theorem State.beginCycle_agent : (s.beginCycle).agent = s.agent := rfl
@[simp] theorem State.beginCycle_reply : (s.beginCycle).reply = s.reply := rfl

/-! ## `State.configure` -/

@[simp] theorem State.configure_cfg : (s.configure).cfg = s.cfg := rfl
@[simp] theorem State.configure_mode : (s.configure).mode = .configured := rfl
@[simp] theorem State.configure_errCode : (s.configure).errCode = s.errCode := rfl
@[simp] theorem State.configure_errInfo : (s.configure).errInfo = s.errInfo := rfl
@[simp] theorem State.configure_fsm : (s.configure).fsm = s.fsm := rfl
@[simp] theorem State.configure_pos : (s.configure).pos = s.pos := rfl
@[simp] theorem State.configure_curRow : (s.configure).curRow = s.curRow := rfl
@[simp] theorem State.configure_curPlane : (s.configure).curPlane = s.curPlane := rfl
@[simp] theorem State.configure_lastResult : (s.configure).lastResult = s.lastResult := rfl
@[simp] theorem State.configure_activeBuf : (s.configure).activeBuf = s.activeBuf := rfl
@[simp] theorem State.configure_swapPending : (s.configure).swapPending = s.swapPending := rfl
@[simp] theorem State.configure_shutdownReq : (s.configure).shutdownReq = s.shutdownReq := rfl
@[simp] theorem State.configure_trainBusy : (s.configure).trainBusy = s.trainBusy := rfl
@[simp] theorem State.configure_divCfg : (s.configure).divCfg = s.cfg.clockDivider := rfl
@[simp] theorem State.configure_bus : (s.configure).bus = s.bus := rfl
@[simp] theorem State.configure_rowbuf : (s.configure).rowbuf = s.rowbuf := rfl
@[simp] theorem State.configure_fb : (s.configure).fb = s.fb.takeShape s.cfg.shape := rfl
@[simp] theorem State.configure_env : (s.configure).env = s.env := rfl
@[simp] theorem State.configure_inbox : (s.configure).inbox = s.inbox := rfl
@[simp] theorem State.configure_agent : (s.configure).agent = s.agent := rfl
@[simp] theorem State.configure_reply : (s.configure).reply = s.reply := rfl

/-! ## `State.latchShowComplete` -/

@[simp] theorem State.latchShowComplete_cfg : (s.latchShowComplete).cfg = s.cfg := rfl
@[simp] theorem State.latchShowComplete_mode : (s.latchShowComplete).mode = s.mode := rfl
@[simp] theorem State.latchShowComplete_errCode : (s.latchShowComplete).errCode = s.errCode := rfl
@[simp] theorem State.latchShowComplete_errInfo : (s.latchShowComplete).errInfo = s.errInfo := rfl
@[simp] theorem State.latchShowComplete_fsm : (s.latchShowComplete).fsm = s.fsm := rfl
@[simp] theorem State.latchShowComplete_pos : (s.latchShowComplete).pos = s.pos := rfl
@[simp] theorem State.latchShowComplete_curRow : (s.latchShowComplete).curRow = s.curRow := rfl
@[simp] theorem State.latchShowComplete_curPlane : (s.latchShowComplete).curPlane = s.curPlane := rfl
@[simp] theorem State.latchShowComplete_lastResult : (s.latchShowComplete).lastResult = .complete := rfl
@[simp] theorem State.latchShowComplete_activeBuf : (s.latchShowComplete).activeBuf = s.activeBuf := rfl
@[simp] theorem State.latchShowComplete_swapPending : (s.latchShowComplete).swapPending = s.swapPending := rfl
@[simp] theorem State.latchShowComplete_shutdownReq : (s.latchShowComplete).shutdownReq = s.shutdownReq := rfl
@[simp] theorem State.latchShowComplete_trainBusy : (s.latchShowComplete).trainBusy = s.trainBusy := rfl
@[simp] theorem State.latchShowComplete_divCfg : (s.latchShowComplete).divCfg = s.divCfg := rfl
@[simp] theorem State.latchShowComplete_bus : (s.latchShowComplete).bus = (s.bus.latchAndShow s.cfg.latchDelayTu s.cfg.latchPulseTu).onTimeThenBlank s.cfg.onTimeTu := rfl
@[simp] theorem State.latchShowComplete_rowbuf : (s.latchShowComplete).rowbuf = s.rowbuf := rfl
@[simp] theorem State.latchShowComplete_fb : (s.latchShowComplete).fb = s.fb := rfl
@[simp] theorem State.latchShowComplete_env : (s.latchShowComplete).env = s.env := rfl
@[simp] theorem State.latchShowComplete_inbox : (s.latchShowComplete).inbox = s.inbox := rfl
@[simp] theorem State.latchShowComplete_agent : (s.latchShowComplete).agent = s.agent := rfl
@[simp] theorem State.latchShowComplete_reply : (s.latchShowComplete).reply = s.reply := rfl

/-! ## `State.resetRegisters` -/

@[simp] theorem State.resetRegisters_cfg : (s.resetRegisters).cfg = ConfigRegs.reset := rfl
@[simp] theorem State.resetRegisters_mode : (s.resetRegisters).mode = .reset := rfl
@[simp] theorem State.resetRegisters_errCode : (s.resetRegisters).errCode = .noError := rfl
@[simp] theorem State.resetRegisters_errInfo : (s.resetRegisters).errInfo = 0 := rfl
@[simp] theorem State.resetRegisters_fsm : (s.resetRegisters).fsm = .idle := rfl
@[simp] theorem State.resetRegisters_pos : (s.resetRegisters).pos = Pos.origin := rfl
@[simp] theorem State.resetRegisters_curRow : (s.resetRegisters).curRow = 0 := rfl
@[simp] theorem State.resetRegisters_curPlane : (s.resetRegisters).curPlane = 0 := rfl
@[simp] theorem State.resetRegisters_lastResult : (s.resetRegisters).lastResult = .noCycle := rfl
@[simp] theorem State.resetRegisters_activeBuf : (s.resetRegisters).activeBuf = false := rfl
@[simp] theorem State.resetRegisters_swapPending : (s.resetRegisters).swapPending = false := rfl
@[simp] theorem State.resetRegisters_shutdownReq : (s.resetRegisters).shutdownReq = false := rfl
@[simp] theorem State.resetRegisters_trainBusy : (s.resetRegisters).trainBusy = false := rfl
@[simp] theorem State.resetRegisters_divCfg : (s.resetRegisters).divCfg = 0 := rfl
@[simp] theorem State.resetRegisters_bus : (s.resetRegisters).bus = { Bus.reset with now := s.bus.now, wave := s.bus.wave } := rfl
@[simp] theorem State.resetRegisters_rowbuf : (s.resetRegisters).rowbuf = { words := [], generation := s.rowbuf.generation + 1 } := rfl
@[simp] theorem State.resetRegisters_fb : (s.resetRegisters).fb = s.fb := rfl
@[simp] theorem State.resetRegisters_env : (s.resetRegisters).env = s.env := rfl
@[simp] theorem State.resetRegisters_inbox : (s.resetRegisters).inbox = s.inbox := rfl
@[simp] theorem State.resetRegisters_agent : (s.resetRegisters).agent = s.agent := rfl
@[simp] theorem State.resetRegisters_reply : (s.resetRegisters).reply = .silent := rfl

/-! ## `State.hardwareReset` -/

@[simp] theorem State.hardwareReset_cfg : (s.hardwareReset).cfg = ConfigRegs.reset := rfl
@[simp] theorem State.hardwareReset_mode : (s.hardwareReset).mode = .reset := rfl
@[simp] theorem State.hardwareReset_errCode : (s.hardwareReset).errCode = .noError := rfl
@[simp] theorem State.hardwareReset_errInfo : (s.hardwareReset).errInfo = 0 := rfl
@[simp] theorem State.hardwareReset_fsm : (s.hardwareReset).fsm = .idle := rfl
@[simp] theorem State.hardwareReset_pos : (s.hardwareReset).pos = Pos.origin := rfl
@[simp] theorem State.hardwareReset_curRow : (s.hardwareReset).curRow = 0 := rfl
@[simp] theorem State.hardwareReset_curPlane : (s.hardwareReset).curPlane = 0 := rfl
@[simp] theorem State.hardwareReset_lastResult : (s.hardwareReset).lastResult = .noCycle := rfl
@[simp] theorem State.hardwareReset_activeBuf : (s.hardwareReset).activeBuf = false := rfl
@[simp] theorem State.hardwareReset_swapPending : (s.hardwareReset).swapPending = false := rfl
@[simp] theorem State.hardwareReset_shutdownReq : (s.hardwareReset).shutdownReq = false := rfl
@[simp] theorem State.hardwareReset_trainBusy : (s.hardwareReset).trainBusy = false := rfl
@[simp] theorem State.hardwareReset_divCfg : (s.hardwareReset).divCfg = 0 := rfl
@[simp] theorem State.hardwareReset_bus : (s.hardwareReset).bus = { Bus.reset with now := s.bus.now, wave := s.bus.wave } := rfl
@[simp] theorem State.hardwareReset_rowbuf : (s.hardwareReset).rowbuf = { words := [], generation := s.rowbuf.generation + 1 } := rfl
@[simp] theorem State.hardwareReset_fb : (s.hardwareReset).fb = s.fb.forget State.reset.fb.shape := rfl
@[simp] theorem State.hardwareReset_env : (s.hardwareReset).env = s.env := rfl
@[simp] theorem State.hardwareReset_inbox : (s.hardwareReset).inbox = s.inbox := rfl
@[simp] theorem State.hardwareReset_agent : (s.hardwareReset).agent = s.agent := rfl
@[simp] theorem State.hardwareReset_reply : (s.hardwareReset).reply = .silent := rfl

/-! ## `State.applySwapIfBoundary` -/

@[simp] theorem State.applySwapIfBoundary_cfg : s.applySwapIfBoundary.cfg = s.cfg := by
  unfold State.applySwapIfBoundary; split <;> rfl
@[simp] theorem State.applySwapIfBoundary_mode : s.applySwapIfBoundary.mode = s.mode := by
  unfold State.applySwapIfBoundary; split <;> rfl
@[simp] theorem State.applySwapIfBoundary_errCode : s.applySwapIfBoundary.errCode = s.errCode := by
  unfold State.applySwapIfBoundary; split <;> rfl
@[simp] theorem State.applySwapIfBoundary_errInfo : s.applySwapIfBoundary.errInfo = s.errInfo := by
  unfold State.applySwapIfBoundary; split <;> rfl
@[simp] theorem State.applySwapIfBoundary_fsm : s.applySwapIfBoundary.fsm = s.fsm := by
  unfold State.applySwapIfBoundary; split <;> rfl
@[simp] theorem State.applySwapIfBoundary_pos : s.applySwapIfBoundary.pos = s.pos := by
  unfold State.applySwapIfBoundary; split <;> rfl
@[simp] theorem State.applySwapIfBoundary_curRow : s.applySwapIfBoundary.curRow = s.curRow := by
  unfold State.applySwapIfBoundary; split <;> rfl
@[simp] theorem State.applySwapIfBoundary_curPlane : s.applySwapIfBoundary.curPlane = s.curPlane := by
  unfold State.applySwapIfBoundary; split <;> rfl
@[simp] theorem State.applySwapIfBoundary_lastResult : s.applySwapIfBoundary.lastResult = s.lastResult := by
  unfold State.applySwapIfBoundary; split <;> rfl
@[simp] theorem State.applySwapIfBoundary_shutdownReq : s.applySwapIfBoundary.shutdownReq = s.shutdownReq := by
  unfold State.applySwapIfBoundary; split <;> rfl
@[simp] theorem State.applySwapIfBoundary_trainBusy : s.applySwapIfBoundary.trainBusy = s.trainBusy := by
  unfold State.applySwapIfBoundary; split <;> rfl
@[simp] theorem State.applySwapIfBoundary_divCfg : s.applySwapIfBoundary.divCfg = s.divCfg := by
  unfold State.applySwapIfBoundary; split <;> rfl
@[simp] theorem State.applySwapIfBoundary_bus : s.applySwapIfBoundary.bus = s.bus := by
  unfold State.applySwapIfBoundary; split <;> rfl
@[simp] theorem State.applySwapIfBoundary_rowbuf : s.applySwapIfBoundary.rowbuf = s.rowbuf := by
  unfold State.applySwapIfBoundary; split <;> rfl
@[simp] theorem State.applySwapIfBoundary_fb : s.applySwapIfBoundary.fb = s.fb := by
  unfold State.applySwapIfBoundary; split <;> rfl
@[simp] theorem State.applySwapIfBoundary_env : s.applySwapIfBoundary.env = s.env := by
  unfold State.applySwapIfBoundary; split <;> rfl
@[simp] theorem State.applySwapIfBoundary_inbox : s.applySwapIfBoundary.inbox = s.inbox := by
  unfold State.applySwapIfBoundary; split <;> rfl
@[simp] theorem State.applySwapIfBoundary_agent : s.applySwapIfBoundary.agent = s.agent := by
  unfold State.applySwapIfBoundary; split <;> rfl
@[simp] theorem State.applySwapIfBoundary_reply : s.applySwapIfBoundary.reply = s.reply := by
  unfold State.applySwapIfBoundary; split <;> rfl

theorem State.applySwapIfBoundary_activeBuf : s.applySwapIfBoundary.activeBuf =
    if s.pos = Pos.origin ∧ s.swapPending then !s.activeBuf else s.activeBuf := by
  unfold State.applySwapIfBoundary; split <;> rfl

theorem State.applySwapIfBoundary_swapPending : s.applySwapIfBoundary.swapPending =
    if s.pos = Pos.origin ∧ s.swapPending then false else s.swapPending := by
  unfold State.applySwapIfBoundary; split <;> rfl

/-! ## `State.fatalEntry` -/

@[simp] theorem State.fatalEntry_cfg (e : FatalError) (info : Word) :
    (s.fatalEntry e info).cfg = s.cfg := by
  cases e <;> simp only [State.fatalEntry, State.recordError] <;> split <;> rfl
@[simp] theorem State.fatalEntry_pos (e : FatalError) (info : Word) :
    (s.fatalEntry e info).pos = s.pos := by
  cases e <;> simp only [State.fatalEntry, State.recordError] <;> split <;> rfl
@[simp] theorem State.fatalEntry_curRow (e : FatalError) (info : Word) :
    (s.fatalEntry e info).curRow = s.curRow := by
  cases e <;> simp only [State.fatalEntry, State.recordError] <;> split <;> rfl
@[simp] theorem State.fatalEntry_curPlane (e : FatalError) (info : Word) :
    (s.fatalEntry e info).curPlane = s.curPlane := by
  cases e <;> simp only [State.fatalEntry, State.recordError] <;> split <;> rfl
@[simp] theorem State.fatalEntry_activeBuf (e : FatalError) (info : Word) :
    (s.fatalEntry e info).activeBuf = s.activeBuf := by
  cases e <;> simp only [State.fatalEntry, State.recordError] <;> split <;> rfl
@[simp] theorem State.fatalEntry_swapPending (e : FatalError) (info : Word) :
    (s.fatalEntry e info).swapPending = s.swapPending := by
  cases e <;> simp only [State.fatalEntry, State.recordError] <;> split <;> rfl
@[simp] theorem State.fatalEntry_shutdownReq (e : FatalError) (info : Word) :
    (s.fatalEntry e info).shutdownReq = s.shutdownReq := by
  cases e <;> simp only [State.fatalEntry, State.recordError] <;> split <;> rfl
@[simp] theorem State.fatalEntry_divCfg (e : FatalError) (info : Word) :
    (s.fatalEntry e info).divCfg = s.divCfg := by
  cases e <;> simp only [State.fatalEntry, State.recordError] <;> split <;> rfl
@[simp] theorem State.fatalEntry_rowbuf (e : FatalError) (info : Word) :
    (s.fatalEntry e info).rowbuf = s.rowbuf := by
  cases e <;> simp only [State.fatalEntry, State.recordError] <;> split <;> rfl
@[simp] theorem State.fatalEntry_fb (e : FatalError) (info : Word) :
    (s.fatalEntry e info).fb = s.fb := by
  cases e <;> simp only [State.fatalEntry, State.recordError] <;> split <;> rfl
@[simp] theorem State.fatalEntry_env (e : FatalError) (info : Word) :
    (s.fatalEntry e info).env = s.env := by
  cases e <;> simp only [State.fatalEntry, State.recordError] <;> split <;> rfl
@[simp] theorem State.fatalEntry_inbox (e : FatalError) (info : Word) :
    (s.fatalEntry e info).inbox = s.inbox := by
  cases e <;> simp only [State.fatalEntry, State.recordError] <;> split <;> rfl
@[simp] theorem State.fatalEntry_agent (e : FatalError) (info : Word) :
    (s.fatalEntry e info).agent = s.agent := by
  cases e <;> simp only [State.fatalEntry, State.recordError] <;> split <;> rfl
@[simp] theorem State.fatalEntry_reply (e : FatalError) (info : Word) :
    (s.fatalEntry e info).reply = s.reply := by
  cases e <;> simp only [State.fatalEntry, State.recordError] <;> split <;> rfl
@[simp] theorem State.fatalEntry_fsm (e : FatalError) (info : Word) :
    (s.fatalEntry e info).fsm = .idle := rfl
@[simp] theorem State.fatalEntry_mode (e : FatalError) (info : Word) :
    (s.fatalEntry e info).mode = .faulted := rfl

/-- First error wins (60_exceptions.md R196). -/
theorem State.fatalEntry_errCode (e : FatalError) (info : Word) :
    (s.fatalEntry e info).errCode = if s.errCode = .noError then e.errCode else s.errCode := by
  cases e <;> simp only [State.fatalEntry, State.recordError] <;> split <;> rfl

theorem State.fatalEntry_errInfo (e : FatalError) (info : Word) :
    (s.fatalEntry e info).errInfo = if s.errCode = .noError then info else s.errInfo := by
  cases e <;> simp only [State.fatalEntry, State.recordError] <;> split <;> rfl

/-- A startup error leaves the timeline alone (60_exceptions.md R192). -/
theorem State.fatalEntry_configuration (info : Word) (h : s.errCode = .noError) :
    s.fatalEntry .configuration info =
      { s with errCode := .configurationError, errInfo := info, fsm := .idle, mode := .faulted } := by
  simp [State.fatalEntry, State.recordError, h, FatalError.errCode]

theorem State.fatalEntry_binding (info : Word) (h : s.errCode = .noError) :
    s.fatalEntry .binding info =
      { s with errCode := .bindingError, errInfo := info, fsm := .idle, mode := .faulted } := by
  simp [State.fatalEntry, State.recordError, h, FatalError.errCode]

/-- A timing violation ends the train, blanks, and aborts the cycle (60_exceptions.md R192). -/
@[simp] theorem State.fatalEntry_timing_bus (info : Word) :
    (s.fatalEntry .timingViolation info).bus = s.bus.safeLevels := by
  simp only [State.fatalEntry, State.recordError]; split <;> rfl

@[simp] theorem State.fatalEntry_timing_trainBusy (info : Word) :
    (s.fatalEntry .timingViolation info).trainBusy = false := by
  simp only [State.fatalEntry, State.recordError]; split <;> rfl

@[simp] theorem State.fatalEntry_timing_lastResult (info : Word) :
    (s.fatalEntry .timingViolation info).lastResult = .aborted := by
  simp only [State.fatalEntry, State.recordError]; split <;> rfl

@[simp] theorem State.fatalEntry_configuration_bus (info : Word) :
    (s.fatalEntry .configuration info).bus = s.bus := by
  simp only [State.fatalEntry, State.recordError]; split <;> rfl

@[simp] theorem State.fatalEntry_binding_bus (info : Word) :
    (s.fatalEntry .binding info).bus = s.bus := by
  simp only [State.fatalEntry, State.recordError]; split <;> rfl

@[simp] theorem State.fatalEntry_configuration_trainBusy (info : Word) :
    (s.fatalEntry .configuration info).trainBusy = s.trainBusy := by
  simp only [State.fatalEntry, State.recordError]; split <;> rfl

@[simp] theorem State.fatalEntry_binding_trainBusy (info : Word) :
    (s.fatalEntry .binding info).trainBusy = s.trainBusy := by
  simp only [State.fatalEntry, State.recordError]; split <;> rfl

end Sys2Proof.Machine
end

