-- ==== Sys2Proof/Laws/Memory.lean ====
section
/-! SUPPORT. The frame buffer's cells: a write keeps the canonical form, a read after a write, keys of
different locations are different (20_memory.md R60, R61; log 12). -/

namespace Sys2Proof.Machine

/-- Reading the key just written gives the value written. -/
theorem cellAt_writeCell_same (cells : List (Nat × BitVec 16)) (key : Nat) (v : BitVec 16) :
    cellAt (writeCell cells key v) key = some v := by
  induction cells with
  | nil => simp [writeCell, cellAt]
  | cons c rest ih =>
    obtain ⟨k, u⟩ := c
    unfold writeCell
    split
    · simp [cellAt]
    · split
      · simp [cellAt]
      · rename_i h1 h2
        simp [cellAt, Ne.symm h2, ih]

/-- A write leaves every other key alone. -/
theorem cellAt_writeCell_other (cells : List (Nat × BitVec 16)) (key other : Nat) (v : BitVec 16)
    (h : other ≠ key) : cellAt (writeCell cells key v) other = cellAt cells other := by
  induction cells with
  | nil => simp [writeCell, cellAt, Ne.symm h]
  | cons c rest ih =>
    obtain ⟨k, u⟩ := c
    unfold writeCell
    split
    · simp [cellAt, Ne.symm h]
    · split
      · rename_i hk
        subst hk
        simp [cellAt, Ne.symm h]
      · simp [cellAt, ih]

theorem mem_writeCell (cells : List (Nat × BitVec 16)) (key : Nat) (v : BitVec 16) (p : Nat × BitVec 16)
    (h : p ∈ writeCell cells key v) : p = (key, v) ∨ p ∈ cells := by
  induction cells with
  | nil => simpa [writeCell] using h
  | cons c rest ih =>
    obtain ⟨k, u⟩ := c
    unfold writeCell at h
    split at h
    · simpa using h
    · split at h
      · simp at h ⊢; tauto
      · simp at h ⊢; tauto

/-- A write keeps the keys strictly rising. -/
theorem writeCell_sorted (cells : List (Nat × BitVec 16)) (key : Nat) (v : BitVec 16)
    (h : cells.Pairwise fun p q => p.1 < q.1) :
    (writeCell cells key v).Pairwise fun p q => p.1 < q.1 := by
  induction cells with
  | nil => simp [writeCell]
  | cons c rest ih =>
    obtain ⟨k, u⟩ := c
    have hr := List.pairwise_cons.1 h
    unfold writeCell
    split
    · rename_i hk
      refine List.pairwise_cons.2 ⟨fun q hq => ?_, h⟩
      rcases List.mem_cons.1 hq with rfl | hq
      · exact hk
      · exact Nat.lt_trans hk (hr.1 q hq)
    · split
      · rename_i hk
        subst hk
        exact List.pairwise_cons.2 hr
      · rename_i h1 h2
        refine List.pairwise_cons.2 ⟨fun q hq => ?_, ih hr.2⟩
        rcases mem_writeCell rest key v q hq with rfl | hq
        · show k < key; omega
        · exact hr.1 q hq

/-- Every operation on the frame buffer keeps its canonical form. -/
theorem FrameBuffer.wf_write (f : FrameBuffer) (depth : Nat) (buf : Bool) (y x : Nat) (c : Channel)
    (v : BitVec 16) (h : f.wf) : (f.write depth buf y x c v).wf := writeCell_sorted _ _ _ h

theorem FrameBuffer.wf_forget (f : FrameBuffer) (shape : Shape) : (f.forget shape).wf := List.Pairwise.nil

theorem FrameBuffer.wf_takeShape (f : FrameBuffer) (shape : Shape) (h : f.wf) : (f.takeShape shape).wf := by
  unfold FrameBuffer.takeShape
  split
  · exact h
  · exact f.wf_forget shape

@[simp] theorem FrameBuffer.takeShape_shape (f : FrameBuffer) (shape : Shape) :
    (f.takeShape shape).shape = shape := by
  unfold FrameBuffer.takeShape
  split
  · assumption
  · rfl

@[simp] theorem FrameBuffer.write_shape (f : FrameBuffer) (depth : Nat) (buf : Bool) (y x : Nat)
    (c : Channel) (v : BitVec 16) : (f.write depth buf y x c v).shape = f.shape := rfl

/-- Keys of two locations are equal only if the locations are (20_memory.md R60). -/
theorem locationKey_inj {b b' : Bool} {y y' x x' : Nat} {c c' : Channel}
    (hy : y < 65536) (hy' : y' < 65536) (hx : x < 65536) (hx' : x' < 65536)
    (h : locationKey b y x c = locationKey b' y' x' c') : b = b' ∧ y = y' ∧ x = x' ∧ c = c' := by
  unfold locationKey at h
  have hc : c.number < 4 := by cases c <;> decide
  have hc' : c'.number < 4 := by cases c' <;> decide
  have h1 : c.number = c'.number := by omega
  have h2 : x = x' := by omega
  have h3 : y = y' := by omega
  have h4 : b.toNat = b'.toNat := by omega
  refine ⟨?_, h3, h2, ?_⟩
  · cases b <;> cases b' <;> first | rfl | exact absurd h4 (by decide)
  · cases c <;> cases c' <;> first | rfl | exact absurd h1 (by decide)

/-- A location other than the one written reads as before (20_memory.md R61). -/
theorem FrameBuffer.read_write_other (f : FrameBuffer) (depth depth' : Nat) (b b' : Bool)
    (y y' x x' : Nat) (c c' : Channel) (v : BitVec 16)
    (h : locationKey b' y' x' c' ≠ locationKey b y x c) :
    (f.write depth b y x c v).read depth' b' y' x' c' = f.read depth' b' y' x' c' := by
  simp only [FrameBuffer.read, FrameBuffer.write, cellAt_writeCell_other _ _ _ _ h]

/-- The location written reads as the value written, when it has at most `N` bits (20_memory.md R61). -/
theorem FrameBuffer.read_write_same (f : FrameBuffer) (depth : Nat) (b : Bool) (y x : Nat) (c : Channel)
    (v : BitVec 16) (hv : v.toNat < 2 ^ depth) :
    (f.write depth b y x c v).read depth b y x c = v := by
  have hl : lowBits depth v = v := by
    unfold lowBits; rw [Nat.mod_eq_of_lt hv]; simp
  simp only [FrameBuffer.read, FrameBuffer.write, cellAt_writeCell_same, Option.getD_some, hl]

/-- The bits of a column's word, one for each colour-bit line (20_memory.md R63 (b)). -/
theorem FrameBuffer.pixelWord_getLsbD (f : FrameBuffer) (depth half : Nat) (buf : Bool)
    (r p x i : Nat) : (f.pixelWord depth half buf r p x).getLsbD i =
      let value (lower : Bool) (c : Channel) : Bool :=
        (f.read depth buf (r + if lower then half else 0) x c).getLsbD p
      if i = 0 then value false .red else if i = 1 then value true .red
      else if i = 2 then value false .green else if i = 3 then value true .green
      else if i = 4 then value false .blue else if i = 5 then value true .blue else false := by
  simp only [FrameBuffer.pixelWord, BitVec.getLsbD_ofBoolListLE]
  rcases i with _ | _ | _ | _ | _ | _ | i <;> simp

/-- In the grid of the buffer a column's word is that of its six locations (20_memory.md R63 (b)). -/
theorem FrameBuffer.columnWord_grid (f : FrameBuffer) (c : ConfigRegs) (buf : Bool) (row plane x : Nat)
    (h : f.shape = c.shape) :
    f.columnWord c buf row plane x = f.pixelWord c.colorDepth.toNat c.rowAddresses buf row plane x :=
  if_pos h

@[simp] theorem FrameBuffer.rowPlane_length (f : FrameBuffer) (c : ConfigRegs) (buf : Bool)
    (row plane : Nat) : (f.rowPlane c buf row plane).length = c.rowPixels.toNat := by
  simp [FrameBuffer.rowPlane]

theorem FrameBuffer.rowPlane_getElem? (f : FrameBuffer) (c : ConfigRegs) (buf : Bool)
    (row plane x : Nat) (h : x < c.rowPixels.toNat) :
    (f.rowPlane c buf row plane)[x]? = some (f.columnWord c buf row plane x) := by
  simp [FrameBuffer.rowPlane, h]

/-- A row buffer filled by `SELECT` holds the word of each column (10_state.md R40). -/
theorem RowBuf.word_rowPlane (f : FrameBuffer) (c : ConfigRegs) (buf : Bool) (row plane x generation : Nat)
    (h : x < c.rowPixels.toNat) :
    RowBuf.word { words := f.rowPlane c buf row plane, generation := generation } x
      = f.columnWord c buf row plane x := by
  rw [RowBuf.word, f.rowPlane_getElem? c buf row plane x h, Option.getD_some]

end Sys2Proof.Machine
end

