-- ==== Sys2Proof/Laws/Bus.lean ====
section
/-! SUPPORT. What each operation on the lines can do: one lemma per operation and field, the data and
address lines after a whole drive, and that the trace stays safe (`Bus.Traced`). -/

namespace Sys2Proof.Machine

/-! ## Bits -/

theorem setBit_getLsbD {w : Nat} (v : BitVec w) (i j : Nat) (x : Bool) (hi : i < w) :
    (setBit v i x).getLsbD j = if j = i then x else v.getLsbD j := by
  unfold setBit
  by_cases hij : j = i
  · subst hij
    cases x <;> simp [hi]
  · by_cases hj : j < w
    · cases x <;> simp [hj, hij]
    · have hge : w ≤ j := by omega
      simp [BitVec.getLsbD_of_ge _ _ hge, hij]

/-! ## Single operations -/

namespace Bus

variable (b : Bus) (l : Line) (v : Bool) (d : Nat)

@[simp] theorem advance_pinsActive : (b.advance d).pinsActive = b.pinsActive := rfl
@[simp] theorem advance_oe : (b.advance d).oe = b.oe := rfl
@[simp] theorem advance_lat : (b.advance d).lat = b.lat := rfl
@[simp] theorem advance_clk : (b.advance d).clk = b.clk := rfl
@[simp] theorem advance_data : (b.advance d).data = b.data := rfl
@[simp] theorem advance_addr : (b.advance d).addr = b.addr := rfl
@[simp] theorem advance_now : (b.advance d).now = b.now + d := rfl
@[simp] theorem advance_wave : (b.advance d).wave = b.wave := rfl

@[simp] theorem driveRecorded_pinsActive : (b.driveRecorded l v).pinsActive = b.pinsActive := by
  unfold driveRecorded record; split <;> cases l <;> rfl
@[simp] theorem driveRecorded_now : (b.driveRecorded l v).now = b.now := by
  unfold driveRecorded record; split <;> cases l <;> rfl
theorem driveRecorded_wave : (b.driveRecorded l v).wave =
    if b.pinsActive then { time := b.now, line := l, value := v } :: b.wave else b.wave := by
  unfold driveRecorded record
  cases l <;> cases h : b.pinsActive <;> simp [setLevel, h]
theorem driveRecorded_oe : (b.driveRecorded l v).oe = if l = .oe then v else b.oe := by
  unfold driveRecorded record; split <;> cases l <;> simp [setLevel]
theorem driveRecorded_lat : (b.driveRecorded l v).lat = if l = .lat then v else b.lat := by
  unfold driveRecorded record; split <;> cases l <;> simp [setLevel]
theorem driveRecorded_clk : (b.driveRecorded l v).clk = if l = .clk then v else b.clk := by
  unfold driveRecorded record; split <;> cases l <;> simp [setLevel]
theorem driveRecorded_data : (b.driveRecorded l v).data =
    match l with | .data i => setBit b.data i v | _ => b.data := by
  unfold driveRecorded record; split <;> cases l <;> rfl
theorem driveRecorded_addr : (b.driveRecorded l v).addr =
    match l with | .addr i => setBit b.addr i v | _ => b.addr := by
  unfold driveRecorded record; split <;> cases l <;> rfl

/-- A drive that changes nothing does nothing (00_scope.md R8 (e)). -/
theorem drive_same (h : b.level l = v) : b.drive l v = b := by simp [drive, h]
theorem drive_change (h : b.level l ≠ v) : b.drive l v = b.driveRecorded l v := by simp [drive, h]

@[simp] theorem drive_pinsActive : (b.drive l v).pinsActive = b.pinsActive := by
  unfold drive; split <;> simp
@[simp] theorem drive_now : (b.drive l v).now = b.now := by
  unfold drive; split <;> simp
theorem drive_wave : (b.drive l v).wave =
    if b.level l ≠ v ∧ b.pinsActive then { time := b.now, line := l, value := v } :: b.wave
    else b.wave := by
  unfold drive; split <;> simp_all [driveRecorded_wave]
theorem drive_oe : (b.drive l v).oe = if l = .oe then v else b.oe := by
  unfold drive; split
  · rename_i h; split
    · subst_vars; rfl
    · rfl
  · exact driveRecorded_oe ..
theorem drive_lat : (b.drive l v).lat = if l = .lat then v else b.lat := by
  unfold drive; split
  · rename_i h; split
    · subst_vars; rfl
    · rfl
  · exact driveRecorded_lat ..
theorem drive_clk : (b.drive l v).clk = if l = .clk then v else b.clk := by
  unfold drive; split
  · rename_i h; split
    · subst_vars; rfl
    · rfl
  · exact driveRecorded_clk ..

@[simp] theorem drive_oe_oe : (b.drive .oe v).oe = v := by simp [drive_oe]
@[simp] theorem drive_lat_oe : (b.drive .lat v).oe = b.oe := by simp [drive_oe]
@[simp] theorem drive_clk_oe : (b.drive .clk v).oe = b.oe := by simp [drive_oe]
@[simp] theorem drive_data_oe (i : Fin 6) : (b.drive (.data i) v).oe = b.oe := by simp [drive_oe]
@[simp] theorem drive_addr_oe (i : Fin 16) : (b.drive (.addr i) v).oe = b.oe := by simp [drive_oe]
@[simp] theorem drive_oe_lat : (b.drive .oe v).lat = b.lat := by simp [drive_lat]
@[simp] theorem drive_lat_lat : (b.drive .lat v).lat = v := by simp [drive_lat]
@[simp] theorem drive_clk_lat : (b.drive .clk v).lat = b.lat := by simp [drive_lat]
@[simp] theorem drive_data_lat (i : Fin 6) : (b.drive (.data i) v).lat = b.lat := by simp [drive_lat]
@[simp] theorem drive_addr_lat (i : Fin 16) : (b.drive (.addr i) v).lat = b.lat := by simp [drive_lat]
@[simp] theorem drive_oe_clk : (b.drive .oe v).clk = b.clk := by simp [drive_clk]
@[simp] theorem drive_lat_clk : (b.drive .lat v).clk = b.clk := by simp [drive_clk]
@[simp] theorem drive_clk_clk : (b.drive .clk v).clk = v := by simp [drive_clk]
@[simp] theorem drive_data_clk (i : Fin 6) : (b.drive (.data i) v).clk = b.clk := by simp [drive_clk]
@[simp] theorem drive_addr_clk (i : Fin 16) : (b.drive (.addr i) v).clk = b.clk := by simp [drive_clk]

@[simp] theorem drive_oe_data : (b.drive .oe v).data = b.data := by
  unfold drive; split <;> simp [driveRecorded_data]
@[simp] theorem drive_lat_data : (b.drive .lat v).data = b.data := by
  unfold drive; split <;> simp [driveRecorded_data]
@[simp] theorem drive_clk_data : (b.drive .clk v).data = b.data := by
  unfold drive; split <;> simp [driveRecorded_data]
@[simp] theorem drive_addr_data (i : Fin 16) : (b.drive (.addr i) v).data = b.data := by
  unfold drive; split <;> simp [driveRecorded_data]
@[simp] theorem drive_oe_addr : (b.drive .oe v).addr = b.addr := by
  unfold drive; split <;> simp [driveRecorded_addr]
@[simp] theorem drive_lat_addr : (b.drive .lat v).addr = b.addr := by
  unfold drive; split <;> simp [driveRecorded_addr]
@[simp] theorem drive_clk_addr : (b.drive .clk v).addr = b.addr := by
  unfold drive; split <;> simp [driveRecorded_addr]
@[simp] theorem drive_data_addr (i : Fin 6) : (b.drive (.data i) v).addr = b.addr := by
  unfold drive; split <;> simp [driveRecorded_addr]

/-- A driven data line holds its value and the others keep theirs. -/
theorem drive_data_bit (i : Fin 6) (j : Nat) :
    (b.drive (.data i) v).data.getLsbD j = if j = i then v else b.data.getLsbD j := by
  unfold drive; split
  · rename_i h; split
    · subst_vars; rfl
    · rfl
  · simp [driveRecorded_data, setBit_getLsbD]

/-- A driven address line holds its value and the others keep theirs. -/
theorem drive_addr_bit (i : Fin 16) (j : Nat) :
    (b.drive (.addr i) v).addr.getLsbD j = if j = i then v else b.addr.getLsbD j := by
  unfold drive; split
  · rename_i h; split
    · subst_vars; rfl
    · rfl
  · simp [driveRecorded_addr, setBit_getLsbD]

/-! ## Whole drives -/

/-- A property that every drive of the list keeps holds after all of them. -/
theorem foldl_drive {α : Type} (P : Bus → Prop) (f : α → Line) (g : α → Bool) (as : List α)
    (hP : ∀ c a, a ∈ as → P c → P (c.drive (f a) (g a))) (b : Bus) (hb : P b) :
    P (as.foldl (fun c a => c.drive (f a) (g a)) b) := by
  induction as generalizing b with
  | nil => exact hb
  | cons a as ih =>
    exact ih (fun c x hx => hP c x (List.mem_cons_of_mem a hx)) _
      (hP b a (List.mem_cons_self ..) hb)

/-- What driving the colour-bit lines leaves alone. -/
theorem driveData_frame (word : BitVec 6) :
    (b.driveData word).pinsActive = b.pinsActive ∧ (b.driveData word).oe = b.oe ∧
    (b.driveData word).lat = b.lat ∧ (b.driveData word).clk = b.clk ∧
    (b.driveData word).addr = b.addr ∧ (b.driveData word).now = b.now := by
  refine foldl_drive (fun c => c.pinsActive = b.pinsActive ∧ c.oe = b.oe ∧ c.lat = b.lat ∧
    c.clk = b.clk ∧ c.addr = b.addr ∧ c.now = b.now) (fun i : Fin 6 => .data i)
    (fun i => word.getLsbD i) dataLines ?_
    b (by simp)
  intro c a _ h
  simpa using h

@[simp] theorem driveData_pinsActive (word : BitVec 6) : (b.driveData word).pinsActive = b.pinsActive :=
  (b.driveData_frame word).1
@[simp] theorem driveData_oe (word : BitVec 6) : (b.driveData word).oe = b.oe :=
  (b.driveData_frame word).2.1
@[simp] theorem driveData_lat (word : BitVec 6) : (b.driveData word).lat = b.lat :=
  (b.driveData_frame word).2.2.1
@[simp] theorem driveData_clk (word : BitVec 6) : (b.driveData word).clk = b.clk :=
  (b.driveData_frame word).2.2.2.1
@[simp] theorem driveData_addr (word : BitVec 6) : (b.driveData word).addr = b.addr :=
  (b.driveData_frame word).2.2.2.2.1
@[simp] theorem driveData_now (word : BitVec 6) : (b.driveData word).now = b.now :=
  (b.driveData_frame word).2.2.2.2.2

/-- After the six drives the colour-bit lines carry the word (42_sequencer.md R143). -/
@[simp] theorem driveData_data (word : BitVec 6) : (b.driveData word).data = word := by
  apply BitVec.eq_of_getLsbD_eq
  intro j hj
  have : j = 0 ∨ j = 1 ∨ j = 2 ∨ j = 3 ∨ j = 4 ∨ j = 5 := by omega
  simp only [driveData, dataLines, List.foldl_cons, List.foldl_nil, drive_data_bit]
  rcases this with rfl | rfl | rfl | rfl | rfl | rfl <;> simp

/-- What driving the address lines leaves alone. -/
theorem driveAddr_frame (lines : Nat) (row : BitVec 16) :
    (b.driveAddr lines row).pinsActive = b.pinsActive ∧ (b.driveAddr lines row).oe = b.oe ∧
    (b.driveAddr lines row).lat = b.lat ∧ (b.driveAddr lines row).clk = b.clk ∧
    (b.driveAddr lines row).data = b.data ∧ (b.driveAddr lines row).now = b.now := by
  refine foldl_drive (fun c => c.pinsActive = b.pinsActive ∧ c.oe = b.oe ∧ c.lat = b.lat ∧
    c.clk = b.clk ∧ c.data = b.data ∧ c.now = b.now) (fun i : Fin 16 => .addr i)
    (fun i => row.getLsbD i) (addrLines lines) ?_ b (by simp)
  intro c a _ h
  simpa using h

@[simp] theorem driveAddr_pinsActive (lines : Nat) (row : BitVec 16) :
    (b.driveAddr lines row).pinsActive = b.pinsActive := (b.driveAddr_frame lines row).1
@[simp] theorem driveAddr_oe (lines : Nat) (row : BitVec 16) :
    (b.driveAddr lines row).oe = b.oe := (b.driveAddr_frame lines row).2.1
@[simp] theorem driveAddr_lat (lines : Nat) (row : BitVec 16) :
    (b.driveAddr lines row).lat = b.lat := (b.driveAddr_frame lines row).2.2.1
@[simp] theorem driveAddr_clk (lines : Nat) (row : BitVec 16) :
    (b.driveAddr lines row).clk = b.clk := (b.driveAddr_frame lines row).2.2.2.1
@[simp] theorem driveAddr_data (lines : Nat) (row : BitVec 16) :
    (b.driveAddr lines row).data = b.data := (b.driveAddr_frame lines row).2.2.2.2.1
@[simp] theorem driveAddr_now (lines : Nat) (row : BitVec 16) :
    (b.driveAddr lines row).now = b.now := (b.driveAddr_frame lines row).2.2.2.2.2

theorem mem_addrLines (lines : Nat) (i : Fin 16) : i ∈ addrLines lines ↔ i.val < lines := by
  by_cases h : lines < 16
  · have : ∀ n : Fin 16, ∀ i : Fin 16, i ∈ addrLines n ↔ i.val < n.val := by decide
    exact this ⟨lines, h⟩ i
  · have h16 : addrLines lines = addrLines 16 := by
      unfold addrLines; rw [List.take_of_length_le (by simp; omega), List.take_of_length_le (by simp)]
    have : ∀ i : Fin 16, i ∈ addrLines 16 := by decide
    simp only [h16, this i, true_iff]; omega

theorem foldl_driveAddr_bit (row : BitVec 16) (ls : List (Fin 16)) (b : Bus) (j : Nat) :
    (ls.foldl (fun c i => c.drive (.addr i) (row.getLsbD i)) b).addr.getLsbD j =
      if j ∈ ls.map Fin.val then row.getLsbD j else b.addr.getLsbD j := by
  induction ls generalizing b with
  | nil => simp
  | cons i ls ih =>
    rw [List.foldl_cons, ih, drive_addr_bit]
    by_cases h1 : j ∈ ls.map Fin.val
    · have : j ∈ (i :: ls).map Fin.val := by simp at h1 ⊢; exact .inr h1
      simp only [h1, this, if_true]
    · by_cases h2 : j = i
      · subst h2; simp [h1]
      · have : j ∉ (i :: ls).map Fin.val := by
          simp only [List.map_cons, List.mem_cons, not_or]; exact ⟨h2, h1⟩
        simp only [h1, this, h2, if_false]

/-- After the drives the first `lines` address lines carry the row address, the others keep their
values (42_sequencer.md R141). -/
theorem driveAddr_bit (lines : Nat) (row : BitVec 16) (j : Nat) :
    (b.driveAddr lines row).addr.getLsbD j =
      if j < lines ∧ j < 16 then row.getLsbD j else b.addr.getLsbD j := by
  unfold driveAddr
  rw [foldl_driveAddr_bit]
  have : (j ∈ (addrLines lines).map Fin.val) ↔ (j < lines ∧ j < 16) := by
    constructor
    · intro h
      obtain ⟨i, hi, rfl⟩ := List.mem_map.1 h
      exact ⟨(mem_addrLines lines i).1 hi, i.isLt⟩
    · rintro ⟨h1, h2⟩
      exact List.mem_map.2 ⟨⟨j, h2⟩, (mem_addrLines lines _).2 h1, rfl⟩
  simp only [this]

/-! ## Phases -/

@[simp] theorem safeLevels_pinsActive : b.safeLevels.pinsActive = b.pinsActive := by simp [safeLevels]
@[simp] theorem safeLevels_oe : b.safeLevels.oe = false := by simp [safeLevels]
@[simp] theorem safeLevels_lat : b.safeLevels.lat = false := by simp [safeLevels]
@[simp] theorem safeLevels_clk : b.safeLevels.clk = false := by simp [safeLevels]
@[simp] theorem safeLevels_data : b.safeLevels.data = b.data := by simp [safeLevels]
@[simp] theorem safeLevels_addr : b.safeLevels.addr = b.addr := by simp [safeLevels]
@[simp] theorem safeLevels_now : b.safeLevels.now = b.now := by simp [safeLevels]

/-- Lines that are already safe stay, and nothing is recorded (60_exceptions.md R192). -/
theorem safeLevels_of_safe (ho : b.oe = false) (hl : b.lat = false) (hc : b.clk = false) :
    b.safeLevels = b := by
  unfold safeLevels
  rw [drive_same b .oe false ho, drive_same b .lat false hl, drive_same b .clk false hc]

@[simp] theorem pixel_pinsActive (half : Nat) (w : BitVec 6) :
    (b.pixel half w).pinsActive = b.pinsActive := by simp [pixel]
@[simp] theorem pixel_oe (half : Nat) (w : BitVec 6) : (b.pixel half w).oe = b.oe := by simp [pixel]
@[simp] theorem pixel_lat (half : Nat) (w : BitVec 6) : (b.pixel half w).lat = b.lat := by simp [pixel]
@[simp] theorem pixel_clk (half : Nat) (w : BitVec 6) : (b.pixel half w).clk = false := by simp [pixel]
@[simp] theorem pixel_data (half : Nat) (w : BitVec 6) : (b.pixel half w).data = w := by simp [pixel]
@[simp] theorem pixel_addr (half : Nat) (w : BitVec 6) : (b.pixel half w).addr = b.addr := by
  simp [pixel]
@[simp] theorem pixel_now (half : Nat) (w : BitVec 6) : (b.pixel half w).now = b.now + 2 * half := by
  simp [pixel]; omega

/-- What shifting pixels leaves alone, and how long it takes (42_sequencer.md R143). -/
theorem pixels_frame (half : Nat) (word : Nat → BitVec 6) (xs : List Nat) (b : Bus) :
    (b.pixels half word xs).pinsActive = b.pinsActive ∧ (b.pixels half word xs).oe = b.oe ∧
    (b.pixels half word xs).lat = b.lat ∧ (b.pixels half word xs).addr = b.addr ∧
    (b.pixels half word xs).now = b.now + 2 * half * xs.length := by
  induction xs generalizing b with
  | nil => simp [pixels]
  | cons x xs ih =>
    have := ih (b.pixel half (word x))
    simp only [pixels, List.foldl_cons, List.length_cons] at *
    simp [this]
    ring

@[simp] theorem pixels_pinsActive (half : Nat) (word : Nat → BitVec 6) (xs : List Nat) :
    (b.pixels half word xs).pinsActive = b.pinsActive := (pixels_frame half word xs b).1
@[simp] theorem pixels_oe (half : Nat) (word : Nat → BitVec 6) (xs : List Nat) :
    (b.pixels half word xs).oe = b.oe := (pixels_frame half word xs b).2.1
@[simp] theorem pixels_lat (half : Nat) (word : Nat → BitVec 6) (xs : List Nat) :
    (b.pixels half word xs).lat = b.lat := (pixels_frame half word xs b).2.2.1
@[simp] theorem pixels_addr (half : Nat) (word : Nat → BitVec 6) (xs : List Nat) :
    (b.pixels half word xs).addr = b.addr := (pixels_frame half word xs b).2.2.2.1
@[simp] theorem pixels_now (half : Nat) (word : Nat → BitVec 6) (xs : List Nat) :
    (b.pixels half word xs).now = b.now + 2 * half * xs.length := (pixels_frame half word xs b).2.2.2.2

/-- The clock idles low around pixels (42_sequencer.md R142). -/
theorem pixels_clk (half : Nat) (word : Nat → BitVec 6) (xs : List Nat) (b : Bus) (h : b.clk = false) :
    (b.pixels half word xs).clk = false := by
  induction xs generalizing b with
  | nil => exact h
  | cons x xs ih => exact ih _ (by simp)

theorem pixels_append (half : Nat) (word : Nat → BitVec 6) (xs ys : List Nat) (b : Bus) :
    b.pixels half word (xs ++ ys) = (b.pixels half word xs).pixels half word ys := by
  simp [pixels]

@[simp] theorem blankThenAddress_pinsActive (lines : Nat) (row : BitVec 16) :
    (b.blankThenAddress lines row).pinsActive = b.pinsActive := by simp [blankThenAddress]
@[simp] theorem blankThenAddress_oe (lines : Nat) (row : BitVec 16) :
    (b.blankThenAddress lines row).oe = false := by simp [blankThenAddress]
@[simp] theorem blankThenAddress_lat (lines : Nat) (row : BitVec 16) :
    (b.blankThenAddress lines row).lat = b.lat := by simp [blankThenAddress]
@[simp] theorem blankThenAddress_clk (lines : Nat) (row : BitVec 16) :
    (b.blankThenAddress lines row).clk = b.clk := by simp [blankThenAddress]
@[simp] theorem blankThenAddress_data (lines : Nat) (row : BitVec 16) :
    (b.blankThenAddress lines row).data = b.data := by simp [blankThenAddress]
@[simp] theorem blankThenAddress_now (lines : Nat) (row : BitVec 16) :
    (b.blankThenAddress lines row).now = b.now := by simp [blankThenAddress]
theorem blankThenAddress_bit (lines : Nat) (row : BitVec 16) (j : Nat) :
    (b.blankThenAddress lines row).addr.getLsbD j =
      if j < lines ∧ j < 16 then row.getLsbD j else b.addr.getLsbD j := by
  simp [blankThenAddress, driveAddr_bit]

@[simp] theorem latchAndShow_pinsActive (delay width : Nat) :
    (b.latchAndShow delay width).pinsActive = b.pinsActive := by simp [latchAndShow]
@[simp] theorem latchAndShow_oe (delay width : Nat) :
    (b.latchAndShow delay width).oe = true := by simp [latchAndShow]
@[simp] theorem latchAndShow_lat (delay width : Nat) :
    (b.latchAndShow delay width).lat = false := by simp [latchAndShow]
@[simp] theorem latchAndShow_clk (delay width : Nat) :
    (b.latchAndShow delay width).clk = b.clk := by simp [latchAndShow]
@[simp] theorem latchAndShow_data (delay width : Nat) :
    (b.latchAndShow delay width).data = b.data := by simp [latchAndShow]
@[simp] theorem latchAndShow_addr (delay width : Nat) :
    (b.latchAndShow delay width).addr = b.addr := by simp [latchAndShow]
@[simp] theorem latchAndShow_now (delay width : Nat) :
    (b.latchAndShow delay width).now = b.now + delay + width := by simp [latchAndShow]

@[simp] theorem onTimeThenBlank_pinsActive (u : Nat) :
    (b.onTimeThenBlank u).pinsActive = b.pinsActive := by simp [onTimeThenBlank]
@[simp] theorem onTimeThenBlank_oe (u : Nat) : (b.onTimeThenBlank u).oe = false := by
  simp [onTimeThenBlank]
@[simp] theorem onTimeThenBlank_lat (u : Nat) : (b.onTimeThenBlank u).lat = b.lat := by
  simp [onTimeThenBlank]
@[simp] theorem onTimeThenBlank_clk (u : Nat) : (b.onTimeThenBlank u).clk = b.clk := by
  simp [onTimeThenBlank]
@[simp] theorem onTimeThenBlank_data (u : Nat) : (b.onTimeThenBlank u).data = b.data := by
  simp [onTimeThenBlank]
@[simp] theorem onTimeThenBlank_addr (u : Nat) : (b.onTimeThenBlank u).addr = b.addr := by
  simp [onTimeThenBlank]
@[simp] theorem onTimeThenBlank_now (u : Nat) : (b.onTimeThenBlank u).now = b.now + u := by
  simp [onTimeThenBlank]

/-- The events of driving the address: one for each bit that changes, ascending (42_sequencer.md R141). -/
theorem foldl_drive_addr_wave (row : BitVec 16) (ls : List (Fin 16)) (hnd : ls.Nodup)
    (hp : b.pinsActive = true) :
    (ls.foldl (fun c i => c.drive (.addr i) (row.getLsbD i)) b).wave =
      ((ls.filter fun i : Fin 16 => b.addr.getLsbD (i : Nat) != row.getLsbD (i : Nat)).map
        fun i : Fin 16 => { time := b.now, line := .addr i, value := row.getLsbD (i : Nat) : Event }).reverse
        ++ b.wave := by
  induction ls generalizing b with
  | nil => simp
  | cons i ls ih =>
    rw [List.nodup_cons] at hnd
    rw [List.foldl_cons, ih _ hnd.2 (by simpa using hp)]
    have : (ls.filter fun j : Fin 16 =>
        (b.drive (.addr i) (row.getLsbD i)).addr.getLsbD (j : Nat) != row.getLsbD (j : Nat)) =
        ls.filter fun j : Fin 16 => b.addr.getLsbD (j : Nat) != row.getLsbD (j : Nat) := by
      apply List.filter_congr
      intro j hj
      rw [Bus.drive_addr_bit, if_neg]
      intro h; exact hnd.1 (by rw [← Fin.ext h]; exact hj)
    rw [this, Bus.drive_wave]
    by_cases h : b.addr.getLsbD i = row.getLsbD i
    · rw [if_neg (by simp only [Bus.level, h]; simp), List.filter_cons_of_neg (by rw [h]; simp)]; simp
    · rw [if_pos ⟨by simpa only [Bus.level] using h, hp⟩,
        List.filter_cons_of_pos (by simpa only [bne_iff_ne] using h)]
      simp

theorem addrLines_nodup (lines : Nat) : (addrLines lines).Nodup := by
  unfold addrLines
  exact List.Nodup.sublist (List.take_sublist ..) (by decide)

end Bus

end Sys2Proof.Machine
end

