-- ==== Sys2Proof/Laws/Trace.lean ====
section
/-! SUPPORT. The trace of the lines stays safe, ordered and true to the lines through every drive and
every phase of a cycle (42_sequencer.md R154, 00_scope.md R10). -/

namespace Sys2Proof.Machine

/-- The control lines of the bus. -/
def Bus.levels (b : Bus) : Levels where
  oe := b.oe
  lat := b.lat
  clk := b.clk

/-- The trace is safe and ordered, and shows the control lines while they are driven. -/
structure Bus.Traced (b : Bus) : Prop where
  safe : WaveSafe b.wave
  ordered : WaveOrdered b.now b.wave
  shown : b.pinsActive = true → levelsAfter b.wave = b.levels

namespace Bus

variable {b : Bus}

theorem WaveOrdered.later {now now' : Nat} {w : List Event} (h : WaveOrdered now w) (hn : now ≤ now') :
    WaveOrdered now' w := by
  cases w with
  | nil => trivial
  | cons e past => exact ⟨Nat.le_trans h.1 hn, h.2⟩

theorem Traced.advance (h : b.Traced) (d : Nat) : (b.advance d).Traced :=
  ⟨h.safe, WaveOrdered.later h.ordered (Nat.le_add_right ..), h.shown⟩

theorem levels_driveRecorded (l : Line) (v : Bool) (t : Nat) :
    (b.driveRecorded l v).levels = b.levels.apply { time := t, line := l, value := v } := by
  cases l <;> simp [levels, Levels.apply, driveRecorded_oe, driveRecorded_lat, driveRecorded_clk]

/-- A recorded drive keeps the trace, when its event is allowed at the bus's levels. -/
theorem Traced.driveRecorded (h : b.Traced) (l : Line) (v : Bool)
    (ha : b.pinsActive = true → Event.allowed b.levels { time := b.now, line := l, value := v }) :
    (b.driveRecorded l v).Traced := by
  cases hp : b.pinsActive with
  | false => exact ⟨by simpa [driveRecorded_wave, hp] using h.safe,
      by simpa [driveRecorded_wave, hp] using h.ordered, by simp [hp]⟩
  | true =>
    have hw : (b.driveRecorded l v).wave = { time := b.now, line := l, value := v } :: b.wave := by
      simp [driveRecorded_wave, hp]
    have hs := h.shown hp
    refine ⟨?_, ?_, fun _ => ?_⟩
    · rw [hw]; exact ⟨by rw [hs]; exact ha hp, h.safe⟩
    · rw [hw, driveRecorded_now]; exact ⟨Nat.le_refl _, h.ordered⟩
    · rw [hw, levels_driveRecorded l v b.now, ← hs]; rfl

theorem Traced.drive (h : b.Traced) (l : Line) (v : Bool)
    (ha : b.level l ≠ v → b.pinsActive = true →
      Event.allowed b.levels { time := b.now, line := l, value := v }) : (b.drive l v).Traced := by
  by_cases hl : b.level l = v
  · rwa [drive_same b l v hl]
  · rw [drive_change b l v hl]; exact h.driveRecorded l v (ha hl)

theorem Traced.driveData (h : b.Traced) (ho : b.oe = false) (hl : b.lat = false) (hc : b.clk = false)
    (word : BitVec 6) : (b.driveData word).Traced := by
  refine (foldl_drive (fun c => c.Traced ∧ c.oe = false ∧ c.lat = false ∧ c.clk = false)
    (fun i : Fin 6 => .data i) (fun i => word.getLsbD i) dataLines ?_ b ⟨h, ho, hl, hc⟩).1
  rintro c a - ⟨h, ho, hl, hc⟩
  exact ⟨h.drive _ _ fun _ _ => ⟨ho, hl, hc⟩, by simpa using ⟨ho, hl, hc⟩⟩

theorem Traced.driveAddr (h : b.Traced) (ho : b.oe = false) (lines : Nat) (row : BitVec 16) :
    (b.driveAddr lines row).Traced := by
  refine (foldl_drive (fun c => c.Traced ∧ c.oe = false)
    (fun i : Fin 16 => .addr i) (fun i => row.getLsbD i) (addrLines lines) ?_ b ⟨h, ho⟩).1
  rintro c a - ⟨h, ho⟩
  exact ⟨h.drive _ _ fun _ _ => ho, by simpa using ho⟩

theorem Traced.pixel (h : b.Traced) (ho : b.oe = false) (hl : b.lat = false) (hc : b.clk = false)
    (half : Nat) (word : BitVec 6) : (b.pixel half word).Traced := by
  have h1 := (h.driveData ho hl hc word).advance half
  have h2 := (h1.drive .clk true fun _ _ => ⟨by simpa [levels] using ho, by simpa [levels] using hl⟩).advance half
  exact h2.drive .clk false fun _ _ => ⟨by simpa [levels] using ho, by simpa [levels] using hl⟩

theorem Traced.pixels (h : b.Traced) (ho : b.oe = false) (hl : b.lat = false) (hc : b.clk = false)
    (half : Nat) (word : Nat → BitVec 6) (xs : List Nat) : (b.pixels half word xs).Traced := by
  induction xs generalizing b with
  | nil => exact h
  | cons x xs ih =>
    exact ih (h.pixel ho hl hc half (word x)) (by simpa using ho) (by simpa using hl) (by simp)

theorem Traced.blankThenAddress (h : b.Traced) (lines : Nat)
    (row : BitVec 16) : (b.blankThenAddress lines row).Traced :=
  (h.drive .oe false fun _ _ hv => by simp at hv).driveAddr (by simp) lines row

theorem Traced.latchAndShow (h : b.Traced) (ho : b.oe = false) (hc : b.clk = false) (delay width : Nat) :
    (b.latchAndShow delay width).Traced := by
  have h1 := (h.advance delay).drive .lat true fun _ _ _ => ⟨by simpa [levels] using ho, by simpa [levels] using hc⟩
  have h2 := (h1.advance width).drive .lat false fun _ _ hv => by simp at hv
  exact h2.drive .oe true fun _ _ _ => ⟨by simp [levels], by simpa [levels] using hc⟩

theorem Traced.onTimeThenBlank (h : b.Traced) (u : Nat) : (b.onTimeThenBlank u).Traced :=
  (h.advance u).drive .oe false fun _ _ hv => by simp at hv

theorem Traced.safeLevels (h : b.Traced) : b.safeLevels.Traced := by
  have h1 := h.drive .oe false fun _ _ hv => by simp at hv
  have h2 := h1.drive .lat false fun _ _ hv => by simp at hv
  exact h2.drive .clk false fun _ _ => ⟨by simp [levels], by simp [levels]⟩

end Bus

end Sys2Proof.Machine
end

