-- ==== Sys2Proof/Laws/Train.lean ====
section
/-! SUPPORT. What a pulse train does: it completes exactly when every transfer's stall is within the
slack, its duration, its rising edges, and what it leaves alone (42_sequencer.md R145 to R148). -/

namespace Sys2Proof.Machine

namespace Bus

theorem risingClocks_drive_clk (b : Bus) (v : Bool) :
    risingClocks (b.drive .clk v).wave =
      risingClocks b.wave + (if v = true ∧ b.clk = false ∧ b.pinsActive = true then 1 else 0) := by
  rw [drive_wave]
  cases hp : b.pinsActive <;> cases hc : b.clk <;> cases v <;> simp [level, hc, risingClocks]

theorem risingClocks_drive_other (b : Bus) (l : Line) (v : Bool) (hl : l ≠ .clk) :
    risingClocks (b.drive l v).wave = risingClocks b.wave := by
  rw [drive_wave]
  split
  · simp [risingClocks, hl]
  · rfl

theorem risingClocks_driveData (b : Bus) (word : BitVec 6) :
    risingClocks (b.driveData word).wave = risingClocks b.wave := by
  refine foldl_drive (fun c => risingClocks c.wave = risingClocks b.wave) (fun i : Fin 6 => .data i)
    (fun i => word.getLsbD i) dataLines ?_ b rfl
  intro c a _ h
  rw [risingClocks_drive_other _ _ _ (by simp), h]

/-- A pixel has one rising edge (42_sequencer.md R143). -/
theorem risingClocks_pixel (b : Bus) (half : Nat) (word : BitVec 6) (hp : b.pinsActive = true)
    (hc : b.clk = false) :
    risingClocks (b.pixel half word).wave = risingClocks b.wave + 1 := by
  unfold pixel
  rw [risingClocks_drive_clk, advance_wave, risingClocks_drive_clk, advance_wave,
    risingClocks_driveData]
  simp [hp, hc]

theorem risingClocks_pixels (half : Nat) (word : Nat → BitVec 6) (xs : List Nat) (b : Bus)
    (hp : b.pinsActive = true) (hc : b.clk = false) :
    risingClocks (b.pixels half word xs).wave = risingClocks b.wave + xs.length := by
  induction xs generalizing b with
  | nil => rfl
  | cons x xs ih =>
    have := ih (b.pixel half (word x)) (by simpa using hp) (by simp)
    simp only [pixels, List.foldl_cons, List.length_cons] at *
    rw [this, risingClocks_pixel b half _ hp hc]; omega

/-! ## A train that completes -/

/-- The columns of transfers `k` to `k + fuel − 1` of an `n`-pixel train. -/
def columnsFrom (n : Nat) : (fuel : Nat) → (k : Nat) → List Nat
  | 0, _ => []
  | fuel + 1, k => transferColumns n k ++ columnsFrom n fuel (k + 1)

/-- A train completes exactly when every stall is within the slack (42_sequencer.md R146). -/
theorem transfers_complete_iff (t : TrainTiming) (word : Nat → BitVec 6) (stall : Nat → Nat)
    (n fuel k : Nat) (b : Bus) :
    (∃ c, b.transfers t word stall n fuel k = .complete c) ↔ ∀ j < fuel, stall (k + j) ≤ t.slack := by
  induction fuel generalizing k b with
  | zero => simp [transfers]
  | succ fuel ih =>
    unfold transfers
    split
    · rename_i h
      rw [ih]
      constructor
      · intro hs j hj
        cases j with
        | zero => simpa using h
        | succ j => have := hs j (by omega); rwa [show k + (j + 1) = k + 1 + j by omega]
      · intro hs j hj
        have := hs (j + 1) (by omega)
        rwa [show k + 1 + j = k + (j + 1) by omega]
    · rename_i h
      simp only [reduceCtorEq, exists_false, false_iff, not_forall]
      exact ⟨0, by omega, by simpa using h⟩

theorem columnsFrom_length (n fuel k : Nat) (h : n ≤ 32 * (k + fuel)) :
    (columnsFrom n fuel k).length = n - 32 * k := by
  induction fuel generalizing k with
  | zero => simp [columnsFrom]; omega
  | succ fuel ih =>
    simp only [columnsFrom, List.length_append, ih (k + 1) (by omega), transferColumns,
      List.length_range']
    omega

theorem columnsFrom_eq (n fuel k : Nat) (h : n ≤ 32 * (k + fuel)) :
    columnsFrom n fuel k = List.range' (32 * k) (n - 32 * k) := by
  induction fuel generalizing k with
  | zero => simp [columnsFrom]; omega
  | succ fuel ih =>
    rw [columnsFrom, ih (k + 1) (by omega), transferColumns]
    by_cases h32 : 32 ≤ n - 32 * k
    · rw [Nat.min_eq_left h32, show 32 * (k + 1) = 32 * k + 32 by ring,
        show n - (32 * k + 32) = n - 32 * k - 32 by omega, List.range'_append_1,
        show 32 + (n - 32 * k - 32) = n - 32 * k by omega]
    · rw [Nat.min_eq_right (by omega), show n - 32 * (k + 1) = 0 by omega]; simp

/-- What a completed train leaves alone and how long it took (42_sequencer.md R147, R148). -/
theorem transfers_complete (t : TrainTiming) (word : Nat → BitVec 6) (stall : Nat → Nat)
    (n fuel k : Nat) (b c : Bus) (hn : n ≤ 32 * (k + fuel))
    (h : b.transfers t word stall n fuel k = .complete c) :
    c.pinsActive = b.pinsActive ∧ c.oe = b.oe ∧ c.lat = b.lat ∧ c.addr = b.addr ∧
    (b.clk = false → c.clk = false) ∧
    c.now = b.now + ((List.range fuel).map fun j => stall (k + j)).sum + 2 * t.half * (n - 32 * k) ∧
    (b.pinsActive = true → b.clk = false →
      risingClocks c.wave = risingClocks b.wave + (n - 32 * k)) ∧
    (b.Traced → b.oe = false → b.lat = false → b.clk = false → c.Traced) := by
  induction fuel generalizing k b with
  | zero =>
    simp only [transfers, TrainOutcome.complete.injEq] at h
    subst h
    simp only [show n - 32 * k = 0 by omega, List.range_zero, List.map_nil, List.sum_nil, Nat.mul_zero,
      Nat.add_zero, implies_true, true_and]
    exact ⟨fun hc => hc, fun ht _ _ _ => ht⟩
  | succ fuel ih =>
    unfold transfers at h
    split at h
    · obtain ⟨h1, h2, h3, h4, h5, h6, h7, h8⟩ := ih (k + 1) _ (by omega) h
      simp only [pixels_pinsActive, pixels_oe, pixels_lat, pixels_addr, pixels_now,
        advance_pinsActive, advance_oe, advance_lat, advance_addr, advance_now] at h1 h2 h3 h4 h6 h7 h8
      have hlen : (transferColumns n k).length + (n - 32 * (k + 1)) = n - 32 * k := by
        simp [transferColumns]; omega
      refine ⟨h1, h2, h3, h4, fun hc => h5 (pixels_clk _ _ _ _ hc), ?_, fun hp hc => ?_,
        fun ht ho hl hc => ?_⟩
      · have : (fun j => stall (k + 1 + j)) = (fun j => stall (k + j)) ∘ Nat.succ := by
          funext j; simp only [Function.comp]; congr 1; omega
        rw [this] at h6
        rw [h6, List.range_succ_eq_map, List.map_cons, List.sum_cons, List.map_map, ← hlen,
          Nat.mul_add (2 * t.half), Nat.add_zero k]
        omega
      · rw [h7 hp (pixels_clk _ _ _ _ hc), risingClocks_pixels _ _ _ _ (by simpa using hp) (by simpa using hc),
          advance_wave, ← hlen]
        omega
      · exact h8 ((ht.advance _).pixels (by simpa using ho) (by simpa using hl) (by simpa using hc) _ _ _)
          ho hl (pixels_clk _ _ _ _ hc)
    · exact absurd h (by simp)

/-- What an overrunning train leaves alone: the first transfer over its slack is named (42_sequencer.md
R146, 60_exceptions.md R194). -/
theorem transfers_overrun (t : TrainTiming) (word : Nat → BitVec 6) (stall : Nat → Nat)
    (n fuel k j : Nat) (b c : Bus) (h : b.transfers t word stall n fuel k = .overrun j c) :
    k ≤ j ∧ j < k + fuel ∧ t.slack < stall j ∧ (∀ i, k ≤ i → i < j → stall i ≤ t.slack) ∧
    c.pinsActive = b.pinsActive ∧ c.oe = b.oe ∧ c.lat = b.lat ∧ c.addr = b.addr ∧
    (b.clk = false → c.clk = false) ∧
    (b.Traced → b.oe = false → b.lat = false → b.clk = false → c.Traced) := by
  induction fuel generalizing k b with
  | zero => simp [transfers] at h
  | succ fuel ih =>
    unfold transfers at h
    split at h
    · rename_i hk
      obtain ⟨h1, h2, h3, h4, h5, h6, h7, h8, h9, h10⟩ := ih (k + 1) _ h
      simp only [pixels_pinsActive, pixels_oe, pixels_lat, pixels_addr,
        advance_pinsActive, advance_oe, advance_lat, advance_addr] at h5 h6 h7 h8 h10
      refine ⟨by omega, by omega, h3, fun i hi hij => ?_, h5, h6, h7, h8,
        fun hc => h9 (pixels_clk _ _ _ _ hc), fun ht ho hl hc => ?_⟩
      · by_cases hik : i = k
        · rwa [hik]
        · exact h4 i (by omega) hij
      · exact h10 ((ht.advance _).pixels (by simpa using ho) (by simpa using hl) (by simpa using hc) _ _ _)
          ho hl (pixels_clk _ _ _ _ hc)
    · rename_i hk
      simp only [TrainOutcome.overrun.injEq] at h
      obtain ⟨rfl, rfl⟩ := h
      refine ⟨Nat.le_refl _, by omega, by omega, fun i hi hij => by omega, rfl, rfl, rfl, rfl,
        fun hc => hc, fun ht _ _ _ => ht.advance _⟩

/-- How long an overrunning train took: every transfer before the one that overruns is a whole one, and
that one runs to its deadline (42_sequencer.md R146). -/
theorem transfers_overrun_now (t : TrainTiming) (word : Nat → BitVec 6) (stall : Nat → Nat)
    (n fuel k j : Nat) (b c : Bus) (hn : 32 * (k + fuel) < n + 32)
    (h : b.transfers t word stall n fuel k = .overrun j c) :
    c.now = b.now + ((List.range (j - k)).map fun i => stall (k + i)).sum
      + (j - k) * (32 * (2 * t.half)) + t.budget := by
  induction fuel generalizing k b with
  | zero => simp [transfers] at h
  | succ fuel ih =>
    unfold transfers at h
    split at h
    · have h0 := transfers_overrun _ _ _ _ _ _ _ _ _ h
      have hlen : (transferColumns n k).length = 32 := by simp [transferColumns]; omega
      rw [ih (k + 1) _ (by omega) h]
      have e : j - k = (j - (k + 1)) + 1 := by omega
      have : (fun j => stall (k + 1 + j)) = (fun j => stall (k + j)) ∘ Nat.succ := by
        funext j; simp only [Function.comp]; congr 1; omega
      rw [e, List.range_succ_eq_map, List.map_cons, List.sum_cons, List.map_map, this, pixels_now, hlen,
        advance_now, Nat.add_zero]
      ring_nf
    · simp only [TrainOutcome.overrun.injEq] at h
      obtain ⟨rfl, rfl⟩ := h
      simp

/-! ## The phases that clock nothing -/

@[simp] theorem risingClocks_driveAddr (b : Bus) (lines : Nat) (row : BitVec 16) :
    risingClocks (b.driveAddr lines row).wave = risingClocks b.wave := by
  refine foldl_drive (fun c => risingClocks c.wave = risingClocks b.wave) (fun i : Fin 16 => .addr i)
    (fun i => row.getLsbD i) (addrLines lines) ?_ b rfl
  intro c a _ h
  rw [risingClocks_drive_other _ _ _ (by simp), h]

@[simp] theorem risingClocks_blankThenAddress (b : Bus) (lines : Nat) (row : BitVec 16) :
    risingClocks (b.blankThenAddress lines row).wave = risingClocks b.wave := by
  simp [blankThenAddress, risingClocks_drive_other]

@[simp] theorem risingClocks_latchAndShow (b : Bus) (delay width : Nat) :
    risingClocks (b.latchAndShow delay width).wave = risingClocks b.wave := by
  simp [latchAndShow, risingClocks_drive_other]

@[simp] theorem risingClocks_onTimeThenBlank (b : Bus) (u : Nat) :
    risingClocks (b.onTimeThenBlank u).wave = risingClocks b.wave := by
  simp [onTimeThenBlank, risingClocks_drive_other]

end Bus

end Sys2Proof.Machine
end

