-- ==== Sys2Proof/Laws/Ops.lean ====
section
/-! SUPPORT. One lemma per shared operation of the state: the gates, the pulse train, the register
file, and what `exec` is for each operation. -/

namespace Sys2Proof.Machine

/-! ## Gates (30_encoding.md R92, 60_exceptions.md R201) -/

theorem State.gate_open (s : State) (agents : List Agent) (modes : List Mode) (go : State)
    (ha : s.agent ∈ agents) (hm : s.mode ∈ modes) : s.gate agents modes go = .next go := by
  simp [State.gate, ha, hm]

theorem State.gate_shut (s : State) (agents : List Agent) (modes : List Mode) (go : State)
    (h : s.agent ∉ agents ∨ s.mode ∉ modes) : s.gate agents modes go = .next s.refuse := by
  unfold State.gate
  rcases h with h | h <;> simp [h]

/-- A gate answers a next state: the guarded one, or the refusal. -/
theorem State.gate_cases (s : State) (agents : List Agent) (modes : List Mode) (go t : State)
    (h : s.gate agents modes go = .next t) :
    (s.agent ∈ agents ∧ s.mode ∈ modes ∧ t = go) ∨ t = s.refuse := by
  unfold State.gate at h
  split at h
  · rename_i hc
    simp only [Bool.and_eq_true, List.contains_iff_mem] at hc
    exact .inl ⟨hc.1, hc.2, (Host.Outcome.next.inj h).symm⟩
  · exact .inr (Host.Outcome.next.inj h).symm

theorem State.stepGate_open (s : State) (fsm : FsmState) (go : State) (ha : s.agent = .scheduler)
    (hm : s.mode = .running) (hf : s.fsm = fsm) : s.stepGate fsm go = .next go := by
  unfold State.stepGate
  rw [State.gate_open s _ _ _ (by simp [ha]) (by simp [hm]), if_pos hf]

theorem State.stepGate_cases (s : State) (fsm : FsmState) (go t : State)
    (h : s.stepGate fsm go = .next t) :
    (s.agent = .scheduler ∧ s.mode = .running ∧ s.fsm = fsm ∧ t = go) ∨ t = s.refuse := by
  rcases State.gate_cases _ _ _ _ _ h with ⟨ha, hm, ht⟩ | ht
  · split at ht
    · rename_i hf
      exact .inl ⟨by simpa using ha, by simpa using hm, hf, ht⟩
    · exact .inr ht
  · exact .inr ht

theorem mem_anyMode (m : Mode) : m ∈ anyMode := by cases m <;> decide

/-! ## The pulse train on the state (42_sequencer.md R148) -/

theorem State.pulseTrain_overlap (s : State) (n : Nat) (done aborted : State → State)
    (h : s.trainBusy = true) :
    s.pulseTrain n done aborted = aborted (s.fatalEntry .timingViolation overlapInfo) := by
  simp [State.pulseTrain, h]

theorem State.pulseTrain_complete (s : State) (n : Nat) (done aborted : State → State) (bus : Bus)
    (h : s.trainBusy = false)
    (hb : s.bus.pulseTrain s.trainTiming s.rowbuf.word s.env.stallOf n = .complete bus) :
    s.pulseTrain n done aborted = done { s with bus := bus } := by
  have hb' : (State.trainTiming { s with trainBusy := true }) = s.trainTiming := rfl
  have hs : { s with bus := bus } = { s with bus := bus, trainBusy := false } := by rw [← h]
  unfold State.pulseTrain
  rw [if_neg (by simp [h])]
  simp only [hb', hb, hs]

theorem State.pulseTrain_overrun (s : State) (n : Nat) (done aborted : State → State) (bus : Bus) (k : Nat)
    (h : s.trainBusy = false)
    (hb : s.bus.pulseTrain s.trainTiming s.rowbuf.word s.env.stallOf n = .overrun k bus) :
    s.pulseTrain n done aborted =
      aborted (State.fatalEntry { s with trainBusy := true, bus := bus } .timingViolation (overrunInfo k)) := by
  have hb' : (State.trainTiming { s with trainBusy := true }) = s.trainTiming := rfl
  unfold State.pulseTrain
  rw [if_neg (by simp [h])]
  simp only [hb', hb]

/-! ## Registers by number -/

/-- The numbers `LOADCFG` may name are the registers there are (44_lifecycle.md R170). -/
theorem ConfigRegs.write_isConfigRegister (c : ConfigRegs) (n : BitVec 8) (v : Word) :
    (c.write n.toNat v).isSome = isConfigRegister n := by
  unfold ConfigRegs.write isConfigRegister
  split <;> try simp_all
  rename_i h0 h1 h2 h3 h4 h5 h6 h7 h8 h9
  have : ¬ n.toNat ≤ 9 := by
    intro hle
    have : n.toNat = 0 ∨ n.toNat = 1 ∨ n.toNat = 2 ∨ n.toNat = 3 ∨ n.toNat = 4 ∨ n.toNat = 5 ∨ n.toNat = 6 ∨
      n.toNat = 7 ∨ n.toNat = 8 ∨ n.toNat = 9 := by omega
    tauto
  split <;> simp_all

theorem ConfigRegs.read_isConfigRegister (c : ConfigRegs) (n : BitVec 8) :
    (c.read n.toNat).isSome = isConfigRegister n := by
  unfold ConfigRegs.read isConfigRegister
  split <;> try simp_all
  rename_i h0 h1 h2 h3 h4 h5 h6 h7 h8 h9
  have : ¬ n.toNat ≤ 9 := by
    intro hle
    have : n.toNat = 0 ∨ n.toNat = 1 ∨ n.toNat = 2 ∨ n.toNat = 3 ∨ n.toNat = 4 ∨ n.toNat = 5 ∨ n.toNat = 6 ∨
      n.toNat = 7 ∨ n.toNat = 8 ∨ n.toNat = 9 := by omega
    tauto
  split <;> simp_all

/-- The registers there are, by number (10_state.md R20). -/
theorem State.register_isRegister (s : State) (n : BitVec 8) :
    (s.register n.toNat).isSome = isRegister n := by
  have hc := ConfigRegs.read_isConfigRegister s.cfg n
  unfold State.register isRegister
  split
  all_goals try simp_all
  rename_i h0 h1 h2 h3 h4 h5 h6 h7 h8 h9 h10 h11 h12
  intro h h'
  have : n.toNat = 0x40 ∨ n.toNat = 0x41 ∨ n.toNat = 0x42 ∨ n.toNat = 0x43 ∨ n.toNat = 0x44 ∨
    n.toNat = 0x45 ∨ n.toNat = 0x46 ∨ n.toNat = 0x47 ∨ n.toNat = 0x48 ∨ n.toNat = 0x49 ∨
    n.toNat = 0x4A ∨ n.toNat = 0x4B ∨ n.toNat = 0x4C := by omega
  tauto

/-- The register just written reads back. -/
theorem ConfigRegs.read_write_same (c d : ConfigRegs) (n : Nat) (v : Word) (h : c.write n v = some d) :
    d.read n = some v := by
  unfold ConfigRegs.write at h
  split at h <;> try (cases h; rfl)
  split at h
  · cases h
    rename_i hr
    simp [ConfigRegs.read, hr, ConfigRegs.bindReg, show n - 16 < 26 by omega]
  · contradiction

theorem ConfigRegs.read_bind (c : ConfigRegs) (b : Vector Word 26) (m : Nat)
    (h : 0x10 ≤ m → b[m - 0x10]? = c.bind[m - 0x10]?) :
    ConfigRegs.read { c with bind := b } m = c.read m := by
  unfold ConfigRegs.read
  split <;> try rfl
  split
  · rename_i hr
    simp only [ConfigRegs.bindReg, h hr.1]
  · rfl

/-- Every other register keeps its value. -/
theorem ConfigRegs.read_write_other (c d : ConfigRegs) (n m : Nat) (v : Word) (h : c.write n v = some d)
    (hm : m ≠ n) : d.read m = c.read m := by
  unfold ConfigRegs.write at h
  split at h
  case h_11 =>
    split at h
    · cases h
      apply read_bind
      intro h16
      rw [Vector.getElem?_setIfInBounds, if_neg (by omega)]
    · contradiction
  all_goals
    cases h
    unfold ConfigRegs.read
    split <;> first | exact absurd rfl hm | rfl

/-! ## Durations (00_scope.md R7) -/

/-- For `M ≥ 1` a duration is exact; at `M = 0` it is a free value (log 25). -/
theorem ConfigRegs.durationTu_of_pos (c : ConfigRegs) (ns : Word) (h : 1 ≤ c.baseClockMhz.toNat) :
    c.durationTu ns = ns.toNat * c.baseClockMhz.toNat := by
  unfold ConfigRegs.durationTu
  rw [if_neg]
  rintro h0
  simp [h0] at h

/-- For `M ≥ 1` the budget is `32000·K + V·M` (40_configuration.md R101). -/
theorem ConfigRegs.budgetTu_of_pos (c : ConfigRegs) (h : 1 ≤ c.baseClockMhz.toNat) :
    c.budgetTu = 32000 * c.clockDivider.toNat + c.fixedOverheadNs.toNat * c.baseClockMhz.toNat := by
  unfold ConfigRegs.budgetTu
  rw [if_neg, slackTu, durationTu_of_pos _ _ h]
  rintro h0
  simp [h0] at h

/-- A bit of a word with one bit. -/
theorem bitAt_getLsbD (v : Bool) (k i : Nat) (hk : k < 32) :
    (bitAt v k).getLsbD i = (decide (i = k) && v) := by
  cases v <;> simp [bitAt, hk]
  omega

end Sys2Proof.Machine
end

