-- ==== Sys2Proof/Laws/Binding.lean ====
section
/-! SUPPORT. The required roles as a set and as an ascending list, the lowest one that is not bound,
the bits of the parts of the binding masks, and which output appears on which line (10_state.md R25 to
R27, 40_configuration.md R104 to R107). -/

namespace Sys2Proof.Machine

theorem ConfigRegs.addressLines_le (c : ConfigRegs) : c.addressLines ≤ 16 := by
  unfold ConfigRegs.addressLines addressLinesFor
  exact (List.countP_le_length ..).trans (by simp)

theorem ConfigRegs.eq_activeClockRole (c : ConfigRegs) (r : Nat) :
    r = c.activeClockRole ↔ (r = 2 ∧ c.clockAlt = false) ∨ (r = 3 ∧ c.clockAlt = true) := by
  unfold ConfigRegs.activeClockRole
  cases c.clockAlt <;> simp

theorem mem_colorRoles (r : Nat) : r ∈ colorRoles ↔ 4 ≤ r ∧ r ≤ 9 := by
  simp [colorRoles]; omega

theorem ConfigRegs.requiredRoles_lt (c : ConfigRegs) (r : Nat) (h : r ∈ c.requiredRoles) : r < 26 := by
  have hl := c.addressLines_le
  have ha := (c.eq_activeClockRole r).1
  simp only [ConfigRegs.requiredRoles, List.mem_append, List.mem_cons, List.mem_range'_1,
    mem_colorRoles, List.not_mem_nil, or_false] at h
  omega

/-- The list of required roles ascends (10_state.md R26). -/
theorem ConfigRegs.requiredRoles_ascending (c : ConfigRegs) : c.requiredRoles.Pairwise (· < ·) := by
  unfold ConfigRegs.requiredRoles colorRoles
  rw [List.pairwise_append]
  refine ⟨?_, List.pairwise_lt_range', ?_⟩
  · unfold ConfigRegs.activeClockRole; split <;> decide
  · intro a ha b hb
    rw [List.mem_range'_1] at hb
    have : a < 10 := by
      unfold ConfigRegs.activeClockRole at ha; split at ha <;> simp at ha <;> omega
    omega

theorem lowestUnbound_eq_some (c : ConfigRegs) (r : Nat) : lowestUnbound c = some r ↔
    r ∈ c.requiredRoles ∧ c.bound r = false ∧ ∀ q ∈ c.requiredRoles, q < r → c.bound q = true := by
  unfold lowestUnbound
  have hs := c.requiredRoles_ascending
  generalize c.requiredRoles = l at hs
  induction l with
  | nil => simp
  | cons a l ih =>
    rw [List.pairwise_cons] at hs
    rw [List.find?_cons]
    cases hb : c.bound a
    · simp only [Bool.not_false, Option.some.injEq, List.mem_cons, forall_eq_or_imp]
      constructor
      · rintro rfl
        refine ⟨.inl rfl, hb, by omega, fun q hq hlt => ?_⟩
        have := hs.1 q hq; omega
      · rintro ⟨h1, h2, h3⟩
        rcases h1 with h1 | h1
        · exact h1.symm
        · have := h3.1 (hs.1 r h1); simp [hb] at this
    · simp only [Bool.not_true, ih hs.2, List.mem_cons, forall_eq_or_imp]
      constructor
      · rintro ⟨h1, h2, h3⟩; exact ⟨.inr h1, h2, fun _ => hb, h3⟩
      · rintro ⟨h1, h2, h3⟩
        refine ⟨?_, h2, h3.2⟩
        rcases h1 with h1 | h1
        · subst h1; simp [hb] at h2
        · exact h1

theorem lowestUnbound_eq_none (c : ConfigRegs) :
    lowestUnbound c = none ↔ ∀ r ∈ c.requiredRoles, c.bound r = true := by
  simp [lowestUnbound]

theorem unboundRole_low (r i : Nat) (h : r < 26) (hi : i < 8) :
    (unboundRole r).getLsbD i = decide (i = 0) := by
  have : ∀ r : Fin 26, ∀ i < 8, (unboundRole r).getLsbD i = decide (i = 0) := by decide +kernel
  exact this ⟨r, h⟩ i hi

theorem unboundRole_high (r : Nat) (h : r < 26) :
    (unboundRole r).extractLsb' 8 24 = BitVec.ofNat 24 r := by
  have : ∀ r : Fin 26, (unboundRole r).extractLsb' 8 24 = BitVec.ofNat 24 r := by decide +kernel
  exact this ⟨r, h⟩

theorem bitAt_high (v : Bool) (k : Nat) (h : k < 8) : (bitAt v k).extractLsb' 8 24 = 0 := by
  apply BitVec.eq_of_getLsbD_eq; intro i hi
  rw [BitVec.getLsbD_extractLsb', bitAt_getLsbD _ _ _ (by omega)]; simp; omega

theorem sharedLine_iff (c : ConfigRegs) (i j : Nat) : sharedLine c i j = true ↔
    i ≠ j ∧ c.bound i = true ∧ c.bound j = true ∧ c.line i = c.line j := by
  simp [sharedLine, and_assoc]

/-! ## From logical outputs to lines (10_state.md R25 to R27) -/

theorem ConfigRegs.mem_requiredRoles (c : ConfigRegs) (r : Nat) : r ∈ c.requiredRoles ↔
    r = 0 ∨ r = 1 ∨ r = c.activeClockRole ∨ (4 ≤ r ∧ r ≤ 9) ∨ (10 ≤ r ∧ r < 10 + c.addressLines) := by
  simp only [ConfigRegs.requiredRoles, List.mem_append, List.mem_cons, List.not_mem_nil, or_false,
    mem_colorRoles, List.mem_range'_1]
  tauto

/-- A role carries an output exactly when it is the role of that output (R26). -/
theorem ConfigRegs.outputOf_eq_some (c : ConfigRegs) (role : Nat) (l : Line) :
    c.outputOf role = some l ↔ c.roleOf l = role := by
  constructor
  · intro h
    unfold ConfigRegs.outputOf at h
    split at h
    · cases h; subst_vars; rfl
    split at h
    · cases h; subst_vars; rfl
    split at h
    · cases ha : c.clockAlt <;> simp only [ha, if_true, if_false, reduceCtorEq, Option.some.injEq] at h
      subst h; subst_vars; simp [ConfigRegs.roleOf, ConfigRegs.activeClockRole, ha]
    split at h
    · cases ha : c.clockAlt <;> simp only [ha, if_true, if_false, reduceCtorEq, Option.some.injEq] at h
      subst h; subst_vars; simp [ConfigRegs.roleOf, ConfigRegs.activeClockRole, ha]
    split at h
    · cases h; simp only [ConfigRegs.roleOf]; omega
    split at h
    · cases h; simp only [ConfigRegs.roleOf]; omega
    · simp at h
  · rintro rfl
    cases l with
    | oe => rfl
    | lat => rfl
    | clk => cases ha : c.clockAlt <;> simp [ConfigRegs.roleOf, ConfigRegs.activeClockRole, ConfigRegs.outputOf, ha]
    | data i => fin_cases i <;> rfl
    | addr i => fin_cases i <;> rfl

/-- The role of an output in use is a required one (R26). -/
theorem ConfigRegs.roleOf_required (c : ConfigRegs) (l : Line)
    (h : ∀ i, l = .addr i → i.val < c.addressLines) : c.roleOf l ∈ c.requiredRoles := by
  rw [c.mem_requiredRoles]
  cases l with
  | oe => exact .inl rfl
  | lat => exact .inr (.inl rfl)
  | clk => exact .inr (.inr (.inl rfl))
  | data i => have := i.isLt; simp only [ConfigRegs.roleOf]; omega
  | addr i => have := h i rfl; simp only [ConfigRegs.roleOf]; omega

/-- In a valid configuration an output in use appears on the line of its role and nowhere else (R27,
40_configuration.md R106). -/
theorem ConfigRegs.outputOn_eq_some (c : ConfigRegs) (hv : c.Valid) (l : Line)
    (h : ∀ i, l = .addr i → i.val < c.addressLines) (n : BitVec 16) :
    c.outputOn n = some l ↔ c.lineOf l = some n := by
  have hr := c.roleOf_required l h
  unfold ConfigRegs.outputOn ConfigRegs.lineOf
  constructor
  · intro ho
    obtain ⟨role, hf, ho⟩ := Option.bind_eq_some_iff.1 ho
    have := List.find?_some hf
    simp only [Bool.and_eq_true, beq_iff_eq] at this
    rw [(c.outputOf_eq_some role l).1 ho, if_pos this.1, this.2]
  · intro hl
    split at hl
    · rename_i hb
      have hl := Option.some.inj hl
      obtain ⟨role, hf⟩ := Option.isSome_iff_exists.1 (List.find?_isSome
        (p := fun role => c.bound role && c.line role == n) |>.2 ⟨c.roleOf l, hr, by simp [hb, hl]⟩)
      have hm := List.mem_of_find?_eq_some hf
      have := List.find?_some hf
      simp only [Bool.and_eq_true, beq_iff_eq] at this
      have he : role = c.roleOf l := by
        by_contra hne
        exact hv.distinct role hm _ hr hne (by rw [this.2, hl])
      rw [hf, Option.bind_some, he, c.outputOf_eq_some]
    · simp at hl

end Sys2Proof.Machine
end

