-- ==== Sys2Proof/Laws/Decode.lean ====
section
/-! SUPPORT. The fields of a packed word, and a word from its fields (30_encoding.md R80). -/

namespace Sys2Proof

theorem pack_toNat (op a : BitVec 8) (b : BitVec 16) (c : BitVec 32) :
    (pack op a b c).toNat = op.toNat * 2 ^ 56 + a.toNat * 2 ^ 48 + b.toNat * 2 ^ 32 + c.toNat := by
  unfold pack
  have hc := c.isLt
  have hb := b.isLt
  have ha := a.isLt
  simp only [BitVec.toNat_append]
  rw [← Nat.shiftLeft_add_eq_or_of_lt ha, ← Nat.shiftLeft_add_eq_or_of_lt hb,
    ← Nat.shiftLeft_add_eq_or_of_lt hc]
  simp only [Nat.shiftLeft_eq]
  ring

@[simp] theorem fieldOp_pack (op a : BitVec 8) (b : BitVec 16) (c : BitVec 32) :
    fieldOp (pack op a b c) = op := by
  apply BitVec.eq_of_toNat_eq
  have := op.isLt; have := a.isLt; have := b.isLt; have := c.isLt
  simp only [fieldOp, BitVec.extractLsb'_toNat, pack_toNat, Nat.shiftRight_eq_div_pow]
  omega

@[simp] theorem fieldA_pack (op a : BitVec 8) (b : BitVec 16) (c : BitVec 32) :
    fieldA (pack op a b c) = a := by
  apply BitVec.eq_of_toNat_eq
  have := op.isLt; have := a.isLt; have := b.isLt; have := c.isLt
  simp only [fieldA, BitVec.extractLsb'_toNat, pack_toNat, Nat.shiftRight_eq_div_pow]
  omega

@[simp] theorem fieldB_pack (op a : BitVec 8) (b : BitVec 16) (c : BitVec 32) :
    fieldB (pack op a b c) = b := by
  apply BitVec.eq_of_toNat_eq
  have := op.isLt; have := a.isLt; have := b.isLt; have := c.isLt
  simp only [fieldB, BitVec.extractLsb'_toNat, pack_toNat, Nat.shiftRight_eq_div_pow]
  omega

@[simp] theorem fieldC_pack (op a : BitVec 8) (b : BitVec 16) (c : BitVec 32) :
    fieldC (pack op a b c) = c := by
  apply BitVec.eq_of_toNat_eq
  have := op.isLt; have := a.isLt; have := b.isLt; have := c.isLt
  simp only [fieldC, BitVec.extractLsb'_toNat, pack_toNat, Nat.shiftRight_eq_div_pow]
  omega

theorem append_halves_toNat (x v : BitVec 16) : (x ++ v).toNat = x.toNat * 65536 + v.toNat := by
  rw [BitVec.toNat_append, ← Nat.shiftLeft_add_eq_or_of_lt v.isLt, Nat.shiftLeft_eq]

@[simp] theorem fieldCHigh_pack (op a : BitVec 8) (b x v : BitVec 16) :
    fieldCHigh (pack op a b (x ++ v)) = x := by
  apply BitVec.eq_of_toNat_eq
  have := op.isLt; have := a.isLt; have := b.isLt; have := x.isLt; have := v.isLt
  have hh : BitVec.toNat (w := 32) (x ++ v) = x.toNat * 65536 + v.toNat := append_halves_toNat x v
  simp only [fieldCHigh, BitVec.extractLsb'_toNat, pack_toNat, Nat.shiftRight_eq_div_pow]
  rw [hh]
  omega

@[simp] theorem fieldCLow_pack (op a : BitVec 8) (b x v : BitVec 16) :
    fieldCLow (pack op a b (x ++ v)) = v := by
  apply BitVec.eq_of_toNat_eq
  have := op.isLt; have := a.isLt; have := b.isLt; have := x.isLt; have := v.isLt
  have hh : BitVec.toNat (w := 32) (x ++ v) = x.toNat * 65536 + v.toNat := append_halves_toNat x v
  simp only [fieldCLow, BitVec.extractLsb'_toNat, pack_toNat, Nat.shiftRight_eq_div_pow]
  rw [hh]
  omega

/-- A word is its four fields packed. -/
theorem pack_fields (w : CommandWord) : pack (fieldOp w) (fieldA w) (fieldB w) (fieldC w) = w := by
  apply BitVec.eq_of_toNat_eq
  have := w.isLt
  simp only [pack_toNat, fieldOp, fieldA, fieldB, fieldC, BitVec.extractLsb'_toNat,
    Nat.shiftRight_eq_div_pow]
  omega

/-- The two halves of `c`. -/
theorem fieldC_halves (w : CommandWord) : fieldCHigh w ++ fieldCLow w = fieldC w := by
  apply BitVec.eq_of_toNat_eq
  have := w.isLt
  have hh := append_halves_toNat (fieldCHigh w) (fieldCLow w)
  rw [hh]
  simp only [fieldC, fieldCHigh, fieldCLow, BitVec.extractLsb'_toNat, Nat.shiftRight_eq_div_pow]
  omega

/-! ## The fields of an intersection, and decoding by operation code -/

section
variable (w m : CommandWord)

theorem fieldOp_and : fieldOp (w &&& m) = fieldOp w &&& fieldOp m := BitVec.extractLsb'_and
theorem fieldA_and : fieldA (w &&& m) = fieldA w &&& fieldA m := BitVec.extractLsb'_and
theorem fieldB_and : fieldB (w &&& m) = fieldB w &&& fieldB m := BitVec.extractLsb'_and
theorem fieldC_and : fieldC (w &&& m) = fieldC w &&& fieldC m := BitVec.extractLsb'_and

theorem decode_loadcfg (h : fieldOp w = 0x01#8) : decode w = formatAC w .loadcfg := by
  unfold decode; rw [h]; rfl
theorem decode_validate (h : fieldOp w = 0x02#8) : decode w = formatZ w .validate := by
  unfold decode; rw [h]; rfl
theorem decode_bind (h : fieldOp w = 0x03#8) : decode w = formatA w .bind := by
  unfold decode; rw [h]; rfl
theorem decode_configureDivider (h : fieldOp w = 0x04#8) : decode w = formatC w .configureDivider := by
  unfold decode; rw [h]; rfl
theorem decode_init (h : fieldOp w = 0x05#8) : decode w = formatZ w .init := by
  unfold decode; rw [h]; rfl
theorem decode_start (h : fieldOp w = 0x06#8) : decode w = formatZ w .start := by
  unfold decode; rw [h]; rfl
theorem decode_shutdown (h : fieldOp w = 0x07#8) : decode w = formatZ w .shutdown := by
  unfold decode; rw [h]; rfl
theorem decode_reset (h : fieldOp w = 0x08#8) : decode w = formatZ w .reset := by
  unfold decode; rw [h]; rfl
theorem decode_statusRead (h : fieldOp w = 0x09#8) : decode w = formatA w .statusRead := by
  unfold decode; rw [h]; rfl
theorem decode_tick (h : fieldOp w = 0x10#8) : decode w = formatZ w .tick := by
  unfold decode; rw [h]; rfl
theorem decode_select (h : fieldOp w = 0x11#8) : decode w = formatZ w .select := by
  unfold decode; rw [h]; rfl
theorem decode_shiftDone (h : fieldOp w = 0x12#8) : decode w = formatZ w .shiftDone := by
  unfold decode; rw [h]; rfl
theorem decode_latchDone (h : fieldOp w = 0x13#8) : decode w = formatZ w .latchDone := by
  unfold decode; rw [h]; rfl
theorem decode_blankDone (h : fieldOp w = 0x14#8) : decode w = formatZ w .blankDone := by
  unfold decode; rw [h]; rfl
theorem decode_emit (h : fieldOp w = 0x18#8) : decode w = formatAB w .emit := by
  unfold decode; rw [h]; rfl
theorem decode_startPulseTrain (h : fieldOp w = 0x19#8) : decode w = formatC w .startPulseTrain := by
  unfold decode; rw [h]; rfl
theorem decode_onCycleComplete (h : fieldOp w = 0x1A#8) : decode w = formatA w .onCycleComplete := by
  unfold decode; rw [h]; rfl
theorem decode_getActiveRowPlane (h : fieldOp w = 0x20#8) : decode w = formatAB w .getActiveRowPlane := by
  unfold decode; rw [h]; rfl
theorem decode_swapBuffers (h : fieldOp w = 0x21#8) : decode w = formatZ w .swapBuffers := by
  unfold decode; rw [h]; rfl
theorem decode_fbWrite (h : fieldOp w = 0x22#8) :
    decode w = .ok (.fbWrite (fieldA w) (fieldB w) (fieldCHigh w) (fieldCLow w)) := by
  unfold decode; rw [h]; rfl

end

end Sys2Proof
end

