-- ==== Sys2Proof/Laws/Growth.lean ====
section
/-! SUPPORT. Time never goes back and the trace only grows, in time order (10_state.md R41, 00_scope.md
R10): one lemma per operation on the bus. -/

namespace Sys2Proof.Machine

/-- `c` comes after `b` on the timeline: no earlier, with only new events, which are recorded between
the two and only while the lines are driven (10_state.md R39). -/
structure Bus.Later (b c : Bus) : Prop where
  pins : c.pinsActive = b.pinsActive
  now : b.now ≤ c.now
  wave : ∃ new : List Event, c.wave = new ++ b.wave ∧ (b.pinsActive = false → new = []) ∧
    ∀ e ∈ new, b.now ≤ e.time ∧ e.time ≤ c.now

namespace Bus.Later

variable {a b c : Bus}

theorem refl (b : Bus) : b.Later b := ⟨rfl, Nat.le_refl _, [], rfl, fun _ => rfl, by simp⟩

theorem trans (h : a.Later b) (g : b.Later c) : a.Later c := by
  obtain ⟨new, hw, hp, ht⟩ := h.wave
  obtain ⟨new', hw', hp', ht'⟩ := g.wave
  have h1 := h.now
  have h2 := g.now
  refine ⟨g.pins.trans h.pins, Nat.le_trans h1 h2, new' ++ new, by rw [hw', hw, List.append_assoc],
    fun hf => by rw [hp hf, hp' (h.pins.trans hf)]; rfl, fun e he => ?_⟩
  rcases List.mem_append.1 he with he | he
  · have := ht' e he; omega
  · have := ht e he; omega

theorem advance (b : Bus) (d : Nat) : b.Later (b.advance d) :=
  ⟨rfl, Nat.le_add_right .., [], rfl, fun _ => rfl, by simp⟩

theorem driveRecorded (b : Bus) (l : Line) (v : Bool) : b.Later (b.driveRecorded l v) := by
  refine ⟨by simp, by simp, ?_⟩
  cases hp : b.pinsActive with
  | false => exact ⟨[], by simp [driveRecorded_wave, hp], fun _ => rfl, by simp⟩
  | true => exact ⟨[_], by rw [driveRecorded_wave, if_pos hp]; rfl, by simp, by simp⟩

theorem drive (b : Bus) (l : Line) (v : Bool) : b.Later (b.drive l v) := by
  unfold Bus.drive
  split
  · exact refl b
  · exact driveRecorded b l v

/-- Any list of drives, or of phases, one after the other. -/
theorem foldl {α : Type} (f : Bus → α → Bus) (hf : ∀ (c : Bus) (x : α), c.Later (f c x)) (xs : List α) (b : Bus) :
    b.Later (xs.foldl f b) := by
  induction xs generalizing b with
  | nil => exact refl b
  | cons x xs ih => exact (hf b x).trans (ih _)

theorem pixel (b : Bus) (half : Nat) (word : BitVec 6) : b.Later (b.pixel half word) :=
  ((((foldl _ (fun c _ => drive c _ _) _ b).trans (advance _ half)).trans (drive _ _ _)).trans
    (advance _ half)).trans (drive _ _ _)

theorem pixels (b : Bus) (half : Nat) (word : Nat → BitVec 6) (xs : List Nat) :
    b.Later (b.pixels half word xs) := foldl _ (fun c x => pixel c half (word x)) xs b

theorem blankThenAddress (b : Bus) (lines : Nat) (row : BitVec 16) :
    b.Later (b.blankThenAddress lines row) :=
  (drive b _ _).trans (foldl _ (fun c _ => drive c _ _) _ _)

theorem latchAndShow (b : Bus) (delay width : Nat) : b.Later (b.latchAndShow delay width) :=
  ((((advance b delay).trans (drive _ _ _)).trans (advance _ width)).trans (drive _ _ _)).trans
    (drive _ _ _)

theorem onTimeThenBlank (b : Bus) (u : Nat) : b.Later (b.onTimeThenBlank u) :=
  (advance b u).trans (drive _ _ _)

theorem safeLevels (b : Bus) : b.Later b.safeLevels :=
  ((drive b _ _).trans (drive _ _ _)).trans (drive _ _ _)

/-- The bus a train leaves, however it ends. -/
theorem transfers (t : TrainTiming) (word : Nat → BitVec 6) (stall : Nat → Nat) (n fuel k : Nat)
    (b c : Bus) (h : b.transfers t word stall n fuel k = .complete c ∨
      ∃ j, b.transfers t word stall n fuel k = .overrun j c) : b.Later c := by
  induction fuel generalizing k b with
  | zero => simp [Bus.transfers] at h; rw [h]; exact refl c
  | succ fuel ih =>
    unfold Bus.transfers at h
    split at h
    · exact ((advance b _).trans (pixels _ _ _ _)).trans (ih _ _ h)
    · simp at h; rw [← h]; exact advance b _

theorem train_complete {t : TrainTiming} {word : Nat → BitVec 6} {stall : Nat → Nat} {n : Nat}
    (h : b.pulseTrain t word stall n = .complete c) : b.Later c := transfers _ _ _ _ _ _ _ _ (.inl h)

theorem train_overrun {t : TrainTiming} {word : Nat → BitVec 6} {stall : Nat → Nat} {n k : Nat}
    (h : b.pulseTrain t word stall n = .overrun k c) : b.Later c :=
  transfers _ _ _ _ _ _ _ _ (.inr ⟨k, h⟩)

/-- Nothing is recorded while no line is driven (10_state.md R39). -/
theorem wave_inactive (h : b.Later c) (hp : b.pinsActive = false) : c.wave = b.wave := by
  obtain ⟨new, hw, hn, -⟩ := h.wave
  rw [hw, hn hp]; rfl

end Bus.Later

/-- `START`'s activation, from the pins on (44_lifecycle.md R173). -/
theorem Bus.activatePins_later (b : Bus) (lines : Nat) :
    Bus.Later { b with pinsActive := true } (b.activatePins lines) :=
  ((((Bus.Later.driveRecorded _ _ _).trans (Bus.Later.driveRecorded _ _ _)).trans
    (Bus.Later.driveRecorded _ _ _)).trans
    (Bus.Later.foldl _ (fun c _ => Bus.Later.driveRecorded c _ _) _ _)).trans
    (Bus.Later.foldl _ (fun c _ => Bus.Later.driveRecorded c _ _) _ _)

end Sys2Proof.Machine
end

