-- ==== Sys2Proof/Laws/Waveform.lean ====
section
/-! SUPPORT. Which events each operation on the lines appends to the trace, with their times: one lemma
`…_records` per operation, down to the whole pulse train (42_sequencer.md R141 to R155, 00_scope.md
R8 (e)). -/

namespace Sys2Proof.Machine

/-- From `b` to `c` the trace grows by these events, oldest first, if the pins are active, and by none
otherwise (10_state.md R39). -/
def Bus.Records (b c : Bus) (events : List Event) : Prop :=
  c.wave = (if b.pinsActive then events.reverse else []) ++ b.wave

namespace Bus

variable {b c d : Bus}

theorem Records.trans {es fs : List Event} (h : b.Records c es) (hp : c.pinsActive = b.pinsActive)
    (g : c.Records d fs) : b.Records d (es ++ fs) := by
  unfold Records at *
  rw [g, h, hp]
  cases b.pinsActive <;> simp

theorem records_refl (b : Bus) : b.Records b [] := by simp [Records]

theorem advance_records (b : Bus) (t : Nat) : b.Records (b.advance t) [] := by simp [Records]

theorem drive_records (b : Bus) (l : Line) (v : Bool) :
    b.Records (b.drive l v) (driveEvent b.now l (b.level l) v) := by
  unfold Records driveEvent
  rw [drive_wave]
  cases b.pinsActive <;> by_cases h : b.level l = v <;> simp [h]

/-- A drive sets its own line and leaves every other one. -/
theorem level_drive (b : Bus) (l l' : Line) (v : Bool) :
    (b.drive l v).level l' = if l' = l then v else b.level l' := by
  cases l' with
  | oe => rw [level, drive_oe]; simp only [level, eq_comm]
  | lat => rw [level, drive_lat]; simp only [level, eq_comm]
  | clk => rw [level, drive_clk]; simp only [level, eq_comm]
  | data i =>
    cases l <;> simp only [level, drive_oe_data, drive_lat_data, drive_clk_data, drive_addr_data,
      drive_data_bit, reduceCtorEq, if_false, Line.data.injEq, Fin.ext_iff]
  | addr i =>
    cases l <;> simp only [level, drive_oe_addr, drive_lat_addr, drive_clk_addr, drive_data_addr,
      drive_addr_bit, reduceCtorEq, if_false, Line.addr.injEq, Fin.ext_iff]

/-- Driving different lines in turn: each appends its own event. -/
theorem foldl_drive_records {α : Type} (f : α → Line) (g : α → Bool) (as : List α)
    (hf : ∀ x y, f x = f y → x = y) (hnd : as.Nodup) (b : Bus) :
    b.Records (as.foldl (fun c a => c.drive (f a) (g a)) b)
      (as.flatMap fun a => driveEvent b.now (f a) (b.level (f a)) (g a)) := by
  induction as generalizing b with
  | nil => exact records_refl b
  | cons a as ih =>
    obtain ⟨ha, hnd⟩ := List.nodup_cons.1 hnd
    rw [List.foldl_cons, List.flatMap_cons]
    refine (drive_records b _ _).trans (by simp) ?_
    have h := ih hnd (b.drive (f a) (g a))
    rwa [List.flatMap_congr (g := fun x => driveEvent b.now (f x) (b.level (f x)) (g x))] at h
    intro x hx
    rw [drive_now, level_drive, if_neg fun e => ha (by rwa [hf x a e] at hx)]

theorem driveData_records (b : Bus) (word : BitVec 6) :
    b.Records (b.driveData word) (dataEvents b.now b.data word) :=
  foldl_drive_records Line.data (fun i : Fin 6 => word.getLsbD i) dataLines
    (fun _ _ h => Line.data.inj h) (by decide) b

theorem driveAddr_records (b : Bus) (lines : Nat) (row : BitVec 16) :
    b.Records (b.driveAddr lines row) (addrEvents b.now lines b.addr row) :=
  foldl_drive_records Line.addr (fun i : Fin 16 => row.getLsbD i) (addrLines lines)
    (fun _ _ h => Line.addr.inj h) (addrLines_nodup lines) b

theorem blankThenAddress_records (b : Bus) (lines : Nat) (row : BitVec 16) :
    b.Records (b.blankThenAddress lines row)
      (driveEvent b.now .oe b.oe false ++ addrEvents b.now lines b.addr row) := by
  have h := driveAddr_records (b.drive .oe false) lines row
  rw [drive_now, drive_oe_addr] at h
  exact (drive_records b .oe false).trans (by simp) h

theorem safeLevels_records (b : Bus) : b.Records b.safeLevels (safeEvents b.now b.levels) := by
  have h1 := drive_records b .oe false
  have h2 := drive_records (b.drive .oe false) .lat false
  have h3 := drive_records ((b.drive .oe false).drive .lat false) .clk false
  simp only [level_drive, drive_now, reduceCtorEq, if_false] at h1 h2 h3
  exact (h1.trans (by simp) h2).trans (by simp) h3

/-- After safe levels the bus is as before but for the three lines and their events (60_exceptions.md
R192). -/
theorem safeLevels_eq (b : Bus) : b.safeLevels = { b with
    oe := false, lat := false, clk := false
    wave := (if b.pinsActive then (safeEvents b.now b.levels).reverse else []) ++ b.wave } := by
  have hw : b.safeLevels.wave = _ := safeLevels_records b
  rw [← hw]
  calc b.safeLevels = { b.safeLevels with wave := b.safeLevels.wave } := rfl
    _ = _ := by simp

theorem pixel_records (b : Bus) (half : Nat) (word : BitVec 6) :
    b.Records (b.pixel half word) (pixelEvents b.now half b.clk b.data word) := by
  have h1 := driveData_records b word
  have h2 := drive_records ((b.driveData word).advance half) .clk true
  have h3 := drive_records ((((b.driveData word).advance half).drive .clk true).advance half) .clk false
  simp only [level, advance_clk, driveData_clk, drive_clk_clk, advance_now, drive_now, driveData_now] at h2 h3
  have := (h1.trans (by simp) ((advance_records _ half).trans (by simp) h2)).trans (by simp)
    ((advance_records _ half).trans (by simp) h3)
  simpa [pixel, pixelEvents, driveEvent, Nat.two_mul, Nat.add_assoc] using this

/-- Consecutive columns `a`, `a + 1`, … (42_sequencer.md R143, R144). -/
theorem pixels_records (half : Nat) (word : Nat → BitVec 6) (a m : Nat) (b : Bus) :
    b.Records (b.pixels half word (List.range' a m)) ((List.range' a m).flatMap fun x =>
      pixelEvents (b.now + (x - a) * (2 * half)) half (b.clk && x == a)
        (if x = a then b.data else word (x - 1)) (word x)) := by
  induction m generalizing a b with
  | zero => exact records_refl b
  | succ m ih =>
    rw [List.range'_succ, List.flatMap_cons, pixels, List.foldl_cons]
    refine Records.trans (c := b.pixel half (word a)) ?_ (by simp) ?_
    · simpa using pixel_records b half (word a)
    · have h := ih (a + 1) (b.pixel half (word a))
      rw [List.flatMap_congr (g := fun x => pixelEvents (b.now + (x - a) * (2 * half)) half (b.clk && x == a)
        (if x = a then b.data else word (x - 1)) (word x))] at h
      · exact h
      · intro x hx
        have hx : a + 1 ≤ x := (List.mem_range'_1.1 hx).1
        have e : x - a = (x - (a + 1)) + 1 := by omega
        have hne : x ≠ a := by omega
        simp only [pixel_now, pixel_clk, pixel_data, Bool.false_and, hne, if_false, e, Nat.add_mul, Nat.one_mul]
        congr 1
        · omega
        · simp [hne]
        · split
          · subst_vars; simp
          · rfl

/-- What the clock and the colour bits are after consecutive columns. -/
theorem pixels_last (half : Nat) (word : Nat → BitVec 6) (a m : Nat) (b : Bus) :
    (b.pixels half word (List.range' a m)).clk = (b.clk && m == 0) ∧
    (b.pixels half word (List.range' a m)).data = if m = 0 then b.data else word (a + m - 1) := by
  induction m generalizing a b with
  | zero => simp [pixels]
  | succ m ih =>
    rw [List.range'_succ, pixels, List.foldl_cons]
    obtain ⟨h1, h2⟩ := ih (a + 1) (b.pixel half (word a))
    refine ⟨by simpa [pixels] using h1, ?_⟩
    rw [pixels] at h2
    rw [h2]
    by_cases hm : m = 0
    · simp [hm]
    · simp only [hm, if_false, Nat.add_eq_zero_iff, one_ne_zero, and_false]; congr 1; omega

/-- The transfers of a completed train: the events of its columns, the clock and the colour bits at its
end (42_sequencer.md R145, R146). -/
theorem transfers_records (t : TrainTiming) (word : Nat → BitVec 6) (stall : Nat → Nat) (n fuel k : Nat)
    (b c : Bus) (hn : n ≤ 32 * (k + fuel)) (h : b.transfers t word stall n fuel k = .complete c) :
    b.Records c ((List.range' (32 * k) (n - 32 * k)).flatMap fun x =>
      pixelEvents (b.now + ((List.range (x / 32 + 1 - k)).map fun i => stall (k + i)).sum
          + (x - 32 * k) * (2 * t.half)) t.half (b.clk && x == 32 * k)
        (if x = 32 * k then b.data else word (x - 1)) (word x)) ∧
    c.clk = (b.clk && n - 32 * k == 0) ∧
    c.data = if n - 32 * k = 0 then b.data else word (n - 1) := by
  induction fuel generalizing k b with
  | zero =>
    simp only [transfers, TrainOutcome.complete.injEq] at h
    subst h
    have : n - 32 * k = 0 := by omega
    simp [this, Records]
  | succ fuel ih =>
    unfold transfers at h
    split at h
    swap
    · exact absurd h (by simp)
    obtain ⟨h1, h2, h3⟩ := ih (k + 1) _ (by omega) h
    have hp := pixels_records t.half word (32 * k) (min 32 (n - 32 * k)) (b.advance (stall k))
    have hl := pixels_last t.half word (32 * k) (min 32 (n - 32 * k)) (b.advance (stall k))
    rw [transferColumns] at h1 h2 h3
    rw [hl.1] at h2
    rw [hl.2] at h3
    by_cases h32 : n - 32 * k ≤ 32
    · have he : n - 32 * (k + 1) = 0 := by omega
      rw [he] at h1
      refine ⟨?_, ?_, ?_⟩
      · have := (advance_records b (stall k)).trans (by simp) (hp.trans (by simp) h1)
        rw [Nat.min_eq_right h32] at this
        simp only [List.nil_append, List.range'_zero, List.flatMap_nil, List.append_nil] at this
        rwa [List.flatMap_congr] at this
        intro x hx
        obtain ⟨hx1, hx2⟩ := List.mem_range'_1.1 hx
        have : x / 32 + 1 - k = 1 := by omega
        simp [this]
      · rw [h2, he, Nat.min_eq_right h32]; simp
      · rw [h3, he, Nat.min_eq_right h32]
        by_cases h0 : n - 32 * k = 0
        · simp [h0]
        · simp only [h0, if_true, if_false]; congr 1; omega
    · have hm : min 32 (n - 32 * k) = 32 := Nat.min_eq_left (by omega)
      have he : n - 32 * (k + 1) ≠ 0 := by omega
      have h0 : n - 32 * k ≠ 0 := by omega
      rw [hm] at hp hl h1 h2 h3
      refine ⟨?_, by rw [h2]; simp [h0], by rw [h3]; simp [he, h0]⟩
      have := (advance_records b (stall k)).trans (by simp) (hp.trans (by simp) h1)
      rw [show n - 32 * k = 32 + (n - 32 * (k + 1)) by omega, ← List.range'_append_1, List.flatMap_append,
        show 32 * k + 32 = 32 * (k + 1) by ring]
      rw [List.nil_append] at this
      rwa [List.flatMap_congr (g := fun x =>
          pixelEvents (b.now + ((List.range (x / 32 + 1 - k)).map fun i => stall (k + i)).sum
            + (x - 32 * k) * (2 * t.half)) t.half (b.clk && x == 32 * k)
          (if x = 32 * k then b.data else word (x - 1)) (word x)),
        List.flatMap_congr (l := List.range' (32 * (k + 1)) _) (g := fun x =>
          pixelEvents (b.now + ((List.range (x / 32 + 1 - k)).map fun i => stall (k + i)).sum
            + (x - 32 * k) * (2 * t.half)) t.half (b.clk && x == 32 * k)
          (if x = 32 * k then b.data else word (x - 1)) (word x))] at this
      · intro x hx
        obtain ⟨hx1, -⟩ := List.mem_range'_1.1 hx
        have hne : x ≠ 32 * k := by omega
        have e1 : x / 32 + 1 - k = (x / 32 + 1 - (k + 1)) + 1 := by omega
        have e2 : x - 32 * k = (x - 32 * (k + 1)) + 32 := by omega
        have e3 : (fun i => stall (k + 1 + i)) = (fun i => stall (k + i)) ∘ Nat.succ := by
          funext j; simp only [Function.comp]; congr 1; omega
        rw [hl.1, hl.2, e1, List.range_succ_eq_map, List.map_cons, List.sum_cons, List.map_map, ← e3, e2,
          pixels_now, advance_now, List.length_range']
        congr 1
        · rw [Nat.add_mul]; simp only [Nat.add_zero]; ring
        · simp [hne]
        · simp only [hne, if_false, show ¬ (32 : Nat) = 0 by decide]
          split
          · congr 1; omega
          · rfl
      · intro x hx
        obtain ⟨hx1, hx2⟩ := List.mem_range'_1.1 hx
        have : x / 32 + 1 - k = 1 := by omega
        simp [this]

/-- A completed train of `n` pixels: every event with its time, the clock and the colour bits at its end
(42_sequencer.md R143 to R148). -/
theorem pulseTrain_records (t : TrainTiming) (word : Nat → BitVec 6) (stall : Nat → Nat) (n : Nat) (b c : Bus)
    (h : b.pulseTrain t word stall n = .complete c) :
    b.Records c (trainEvents b.now t.half stall word b.clk b.data n) ∧
    c.clk = (b.clk && n == 0) ∧ c.data = if n = 0 then b.data else word (n - 1) := by
  have := transfers_records t word stall n ((n + 31) / 32) 0 b c (by omega) h
  simpa [trainEvents, columnStart, List.range_eq_range'] using this

/-- A completed train, whole: what the bus is after it. -/
theorem pulseTrain_complete_eq (t : TrainTiming) (word : Nat → BitVec 6) (stall : Nat → Nat) (n : Nat)
    (b c : Bus) (h : b.pulseTrain t word stall n = .complete c) : c = { b with
      clk := b.clk && n == 0
      data := if n = 0 then b.data else word (n - 1)
      now := b.now + ((List.range ((n + 31) / 32)).map stall).sum + n * (2 * t.half)
      wave := (if b.pinsActive then (trainEvents b.now t.half stall word b.clk b.data n).reverse else [])
        ++ b.wave } := by
  obtain ⟨h1, h2, h3⟩ := pulseTrain_records t word stall n b c h
  obtain ⟨g1, g2, g3, g4, -, g5, -, -⟩ :=
    transfers_complete t word stall n ((n + 31) / 32) 0 b c (by omega) h
  have hw : c.wave = _ := h1
  simp only [Nat.zero_add, Nat.mul_zero, Nat.sub_zero] at g5
  rw [← hw, ← h2, ← h3, Nat.mul_comm n, ← g5, ← g1, ← g2, ← g3, ← g4]

theorem latchAndShow_records (b : Bus) (delay width : Nat) :
    b.Records (b.latchAndShow delay width)
      (driveEvent (b.now + delay) .lat b.lat true
        ++ [{ time := b.now + delay + width, line := .lat, value := false }]
        ++ driveEvent (b.now + delay + width) .oe b.oe true) := by
  have h1 := drive_records (b.advance delay) .lat true
  have h2 := drive_records (((b.advance delay).drive .lat true).advance width) .lat false
  have h3 := drive_records ((((b.advance delay).drive .lat true).advance width).drive .lat false) .oe true
  simp only [level, advance_lat, advance_oe, drive_lat_lat, drive_lat_oe, advance_now, drive_now] at h1 h2 h3
  have := (((advance_records b delay).trans (by simp) h1).trans (by simp)
    ((advance_records _ width).trans (by simp) h2)).trans (by simp) h3
  simpa [latchAndShow, driveEvent] using this

theorem onTimeThenBlank_records (b : Bus) (u : Nat) :
    b.Records (b.onTimeThenBlank u) (driveEvent (b.now + u) .oe b.oe false) := by
  simpa [level, onTimeThenBlank] using (advance_records b u).trans (by simp) (drive_records (b.advance u) .oe false)

end Bus

end Sys2Proof.Machine
end

