-- ==== Sys2Proof/Laws/Meanings.lean ====
section
/-! SUPPORT. What a step can do, said once: the cases of `step`, of the pulse train, and of every
operation that is not refused. Statements over all steps are proved from these and the field lemmas of
Laws/State.lean. -/

namespace Sys2Proof.Machine

/-- The cases of a step (70_reset_and_hazards.md R232; logs 1, 3, 4). -/
theorem step_cases (s t : State) (h : step s = .next t) :
    (s.inbox = [] ∧ s.mode = .running ∧ exec s.fsm.operation { s with agent := .scheduler } = .next t) ∨
    (s.inbox = [] ∧ s.mode ≠ .running ∧ t = s) ∨
    (∃ rest a w i, s.inbox = .op a w :: rest ∧ decode w = .ok i ∧
      exec i { s with inbox := rest, agent := a } = .next t) ∨
    (∃ rest a w e, s.inbox = .op a w :: rest ∧ decode w = .error e ∧
      t = State.refuse { s with inbox := rest, agent := a }) ∨
    (∃ rest e, s.inbox = .environment e :: rest ∧ t = { s with inbox := rest, env := e }) ∨
    (∃ rest, s.inbox = .hardwareReset :: rest ∧ t = State.hardwareReset { s with inbox := rest }) := by
  unfold step at h
  split at h
  · rename_i hi
    unfold State.runFreely at h
    split at h
    · exact .inl ⟨hi, ‹_›, h⟩
    · exact .inr (.inl ⟨hi, ‹_›, (Host.Outcome.next.inj h).symm⟩)
  · rename_i r rest hi
    refine .inr (.inr ?_)
    unfold State.take at h
    split at h
    · rename_i a w
      unfold State.present at h
      split at h
      · exact .inl ⟨rest, a, w, _, hi, ‹_›, h⟩
      · exact .inr (.inl ⟨rest, a, w, _, hi, ‹_›, (Host.Outcome.next.inj h).symm⟩)
    · exact .inr (.inr (.inl ⟨rest, _, hi, (Host.Outcome.next.inj h).symm⟩))
    · exact .inr (.inr (.inr ⟨rest, hi, (Host.Outcome.next.inj h).symm⟩))

/-- The ends of a pulse train (42_sequencer.md R146, R148, R153). -/
theorem State.pulseTrain_cases (s : State) (n : Nat) (done aborted : State → State) :
    (∃ c, s.trainBusy = false ∧
      s.bus.pulseTrain s.trainTiming s.rowbuf.word s.env.stallOf n = .complete c ∧
      s.pulseTrain n done aborted = done { s with bus := c }) ∨
    (∃ k c, s.trainBusy = false ∧
      s.bus.pulseTrain s.trainTiming s.rowbuf.word s.env.stallOf n = .overrun k c ∧
      s.pulseTrain n done aborted =
        aborted (State.fatalEntry { s with trainBusy := true, bus := c } .timingViolation (overrunInfo k))) ∨
    (s.trainBusy = true ∧
      s.pulseTrain n done aborted = aborted (s.fatalEntry .timingViolation overlapInfo)) := by
  by_cases hb : s.trainBusy = true
  · exact .inr (.inr ⟨hb, s.pulseTrain_overlap n done aborted hb⟩)
  · have hb : s.trainBusy = false := by simpa using hb
    cases hc : s.bus.pulseTrain s.trainTiming s.rowbuf.word s.env.stallOf n with
    | complete c => exact .inl ⟨c, hb, rfl, s.pulseTrain_complete n done aborted c hb hc⟩
    | overrun k c => exact .inr (.inl ⟨k, c, hb, rfl, s.pulseTrain_overrun n done aborted c k hb hc⟩)

/-- A pulse train within the slack completes. -/
theorem State.pulseTrain_within (s : State) (n : Nat) (done aborted : State → State)
    (hb : s.trainBusy = false) (hs : ∀ k, k < (n + 31) / 32 → s.env.stallOf k ≤ s.cfg.slackTu) :
    ∃ c, s.bus.pulseTrain s.trainTiming s.rowbuf.word s.env.stallOf n = .complete c ∧
      s.pulseTrain n done aborted = done { s with bus := c } := by
  obtain ⟨c, hc⟩ := (Bus.transfers_complete_iff s.trainTiming s.rowbuf.word s.env.stallOf n
    ((n + 31) / 32) 0 s.bus).2 (by intro j hj; rw [Nat.zero_add]; exact hs j hj)
  exact ⟨c, hc, s.pulseTrain_complete n done aborted c hb hc⟩

/-- A pulse train whose first stall over the slack is that of transfer `k` overruns there, at the
deadline of that transfer (42_sequencer.md R146). -/
theorem State.pulseTrain_over (s : State) (n k : Nat) (done aborted : State → State)
    (hb : s.trainBusy = false) (hk : k < (n + 31) / 32) (hs : s.cfg.slackTu < s.env.stallOf k)
    (hle : ∀ j, j < k → s.env.stallOf j ≤ s.cfg.slackTu) :
    ∃ c : Bus, s.pulseTrain n done aborted =
        aborted (State.fatalEntry { s with trainBusy := true, bus := c } .timingViolation (overrunInfo k)) ∧
      c.pinsActive = s.bus.pinsActive ∧ c.addr = s.bus.addr ∧
      c.now = s.bus.now + ((List.range k).map s.env.stallOf).sum + k * (32 * (1000 * s.divCfg.toNat))
        + s.cfg.budgetTu := by
  cases hr : s.bus.pulseTrain s.trainTiming s.rowbuf.word s.env.stallOf n with
  | complete c =>
    have := (Bus.transfers_complete_iff s.trainTiming s.rowbuf.word s.env.stallOf _ _ 0 s.bus).1 ⟨c, hr⟩ k
      (by omega)
    simp only [State.trainTiming, Nat.zero_add] at this
    omega
  | overrun j c =>
    obtain ⟨-, -, h3, h4, h5, -, -, h8, -, -⟩ :=
      Bus.transfers_overrun s.trainTiming s.rowbuf.word s.env.stallOf _ _ 0 j _ _ hr
    have hsl : s.trainTiming.slack = s.cfg.slackTu := rfl
    have hjk : j = k := by
      rcases Nat.lt_trichotomy j k with h | h | h
      · have := hle j h; omega
      · exact h
      · have := h4 k (by omega) h; omega
    subst hjk
    have hnow := Bus.transfers_overrun_now s.trainTiming s.rowbuf.word s.env.stallOf _ _ 0 j _ _ (by omega) hr
    refine ⟨c, s.pulseTrain_overrun n done aborted c j hb hr, h5, h8, ?_⟩
    rw [hnow]
    simp only [Nat.sub_zero, Nat.zero_add, State.trainTiming, halfPeriodTu]
    ring

/-- `ERR_INFO` of an overrun: bit 0, and the transfer in bits [31:16] (60_exceptions.md R189). -/
theorem overrunInfo_fields (k : Nat) :
    (overrunInfo k).extractLsb' 0 16 = 1 ∧ (overrunInfo k).extractLsb' 16 16 = BitVec.ofNat 16 k := by
  constructor
  · apply BitVec.eq_of_toNat_eq; simp [overrunInfo, BitVec.extractLsb'_toNat]
  · apply BitVec.eq_of_toNat_eq
    simp [overrunInfo, BitVec.extractLsb'_toNat, Nat.shiftRight_eq_div_pow]
    omega

/-- What each operation does when it is not refused. -/
def Effect (s t : State) : Instr → Prop
  | .loadcfg reg val => ∃ c, s.cfg.write reg.toNat val = some c ∧ t = State.respond { s with cfg := c } .ok 0
  | .validate => t = { s with reply := t.reply }
  | .bind _ => t = { s with reply := t.reply }
  | .configureDivider d => t = (s.programDivider d).quiet
  | .init =>
    (∃ e m st, (e = .configuration ∨ e = .binding) ∧ t = (s.fatalEntry e m).respond st m) ∨
    (validateMask s.cfg ||| geometryMask s.cfg = 0 ∧ bindingMask s.cfg = 0 ∧ t = s.configure.respond .ok 0)
  | .start => t = State.respond { s with
      bus := if s.bus.pinsActive then s.bus else s.bus.activatePins s.cfg.addressLines
      shutdownReq := false
      mode := .running } .ok 0
  | .shutdown => t = State.respond { s with shutdownReq := true } .ok 0
  | .reset => t = s.resetRegisters.respond .ok 0
  | .statusRead _ => t = { s with reply := t.reply }
  | .tick => s.fsm = .idle ∧
      (s.shutdownReq = true ∧ t = (State.stop { s with bus := s.bus.advance s.env.gap }).quiet ∨
       s.shutdownReq = false ∧
        t = (State.applySwapIfBoundary { s with bus := s.bus.advance s.env.gap }).beginCycle.quiet)
  | .select => s.fsm = .selectPlane ∧
      (s.env.ready = true ∧ t = State.quiet { s with
        rowbuf := { s.rowbuf with
          words := s.fb.rowPlane s.cfg s.activeBuf s.curRow.toNat s.curPlane.toNat }
        bus := s.bus.blankThenAddress s.cfg.addressLines s.curRow
        fsm := .shifting } ∨
       s.env.ready = false ∧ t = s.skipCycle.quiet)
  | .shiftDone => s.fsm = .shifting ∧
      t = s.pulseTrain s.cfg.rowPixels.toNat (fun t => State.quiet { t with fsm := .latching })
        (fun t => t.quiet)
  | .latchDone => s.fsm = .latching ∧ t = State.quiet { s with
      bus := s.bus.latchAndShow s.cfg.latchDelayTu s.cfg.latchPulseTu
      fsm := .blanking }
  | .blankDone => s.fsm = .blanking ∧ ∃ u,
      u = { (State.cycleComplete { s with bus := s.bus.onTimeThenBlank s.cfg.onTimeTu } .complete).advancePos with
        fsm := .idle } ∧
      (s.shutdownReq = true ∧ t = u.stop.quiet ∨ s.shutdownReq = false ∧ t = u.quiet)
  | .emit _ row =>
    (s.fsm ≠ .selectPlane ∨ s.trainBusy = true) ∧
      t = { s.fatalEntry .timingViolation overlapInfo with reply := .cycleResult .aborted } ∨
    s.fsm = .selectPlane ∧ s.trainBusy = false ∧
      t = State.pulseTrain { s with bus := s.bus.blankThenAddress s.cfg.addressLines row }
        s.cfg.rowPixels.toNat
        (fun t => { t.latchShowComplete with reply := .cycleResult .complete })
        (fun t => { t with reply := .cycleResult .aborted })
  | .startPulseTrain n => t = s.pulseTrain n.toNat (fun t => t.quiet) (fun t => t.quiet)
  | .onCycleComplete _ => ∃ r, t = (s.cycleComplete r).quiet
  | .getActiveRowPlane _ _ => t = { s with reply := t.reply }
  | .swapBuffers => t = State.respond { s with swapPending := true } .ok 0
  | .fbWrite _ y x v => ∃ c, y.toNat < s.cfg.panelRows.toNat ∧ x.toNat < s.cfg.rowPixels.toNat ∧
      s.swapPending = false ∧
      t = State.respond
        { s with fb := s.fb.write s.cfg.colorDepth.toNat (!s.activeBuf) y.toNat x.toNat c v } .ok 0

/-- An operation that answers a next state is refused, or is allowed and has its effect (30_encoding.md
R92, 60_exceptions.md R201). -/
theorem exec_cases (i : Instr) (s t : State) (h : exec i s = .next t) :
    t = s.refuse ∨
      s.agent ∈ agentsOf i ∧ s.mode ∈ modesOf i ∧ i.wellFormed = true ∧ Effect s t i := by
  cases i
  all_goals
    simp only [exec, execLoadcfg, execValidate, execBind, execConfigureDivider, execInit, execStart,
      execShutdown, execReset, execStatusRead, execTick, execSelect, execShiftDone, execLatchDone,
      execBlankDone, execEmit, execStartPulseTrain, execOnCycleComplete, execGetActiveRowPlane,
      execSwapBuffers, execFbWrite] at h
    simp only [agentsOf, modesOf, Effect]
  case' tick | select | shiftDone | latchDone | blankDone =>
    obtain ⟨ha, hm, hf, ht⟩ | ht := State.stepGate_cases _ _ _ _ h
  case' loadcfg | validate | bind | configureDivider | init | start | shutdown | reset | statusRead |
      emit | startPulseTrain | onCycleComplete | getActiveRowPlane | swapBuffers | fbWrite =>
    obtain ⟨ha, hm, ht⟩ | ht := State.gate_cases _ _ _ _ _ h
  all_goals (try exact .inl ht)
  case loadcfg reg val =>
    have hw := ConfigRegs.write_isConfigRegister s.cfg reg val
    split at ht
    · rename_i hc; rw [hc] at hw; exact .inr ⟨ha, hm, hw.symm, _, hc, ht⟩
    · exact .inl ht
  case validate => right; refine ⟨ha, hm, rfl, ?_⟩; split at ht <;> subst ht <;> rfl
  case bind =>
    split at ht
    · exact .inl ht
    · right; refine ⟨ha, hm, by simp [Instr.wellFormed]; omega, ?_⟩; split at ht <;> subst ht <;> rfl
  case configureDivider => exact .inr ⟨ha, hm, rfl, ht⟩
  case init =>
    right; refine ⟨ha, hm, rfl, ?_⟩
    split at ht
    · exact .inl ⟨.configuration, _, _, .inl rfl, ht⟩
    · split at ht
      · exact .inl ⟨.binding, _, _, .inr rfl, ht⟩
      · rename_i h1 h2; exact .inr ⟨by simpa using h1, by simpa using h2, ht⟩
  case start => exact .inr ⟨ha, hm, rfl, ht⟩
  case shutdown => exact .inr ⟨ha, hm, rfl, ht⟩
  case reset => exact .inr ⟨ha, hm, rfl, ht⟩
  case statusRead reg =>
    have hw := State.register_isRegister s reg
    split at ht
    · rename_i hc; rw [hc] at hw; subst ht; exact .inr ⟨ha, hm, hw.symm, rfl⟩
    · exact .inl ht
  case tick =>
    right; refine ⟨by simp [ha], by simp [hm], rfl, hf, ?_⟩
    split at ht
    · exact .inl ⟨‹_›, ht⟩
    · rename_i h1; exact .inr ⟨by simpa using h1, ht⟩
  case select =>
    right; refine ⟨by simp [ha], by simp [hm], rfl, hf, ?_⟩
    split at ht
    · exact .inl ⟨‹_›, ht⟩
    · rename_i h1; exact .inr ⟨by simpa using h1, ht⟩
  case shiftDone => exact .inr ⟨by simp [ha], by simp [hm], rfl, hf, ht⟩
  case latchDone => exact .inr ⟨by simp [ha], by simp [hm], rfl, hf, ht⟩
  case blankDone =>
    right; refine ⟨by simp [ha], by simp [hm], rfl, hf, _, rfl, ?_⟩
    split at ht
    · exact .inl ⟨‹_›, ht⟩
    · rename_i h1; exact .inr ⟨by simpa using h1, ht⟩
  case emit =>
    split at ht
    · exact .inr ⟨ha, hm, rfl, .inl ⟨‹_›, ht⟩⟩
    · split at ht
      · exact .inl ht
      · rename_i h1 h2
        simp at h1
        exact .inr ⟨ha, hm, rfl, .inr ⟨h1.1, h1.2, ht⟩⟩
  case startPulseTrain => exact .inr ⟨ha, hm, rfl, ht⟩
  case onCycleComplete r =>
    unfold resultOperand at ht
    split at ht
    · rename_i h1
      split at h1
      · rename_i h2; subst h2; exact .inr ⟨ha, hm, rfl, _, ht⟩
      · split at h1
        · rename_i h2; subst h2; exact .inr ⟨ha, hm, rfl, _, ht⟩
        · simp at h1
    · exact .inl ht
  case getActiveRowPlane =>
    split at ht
    · exact .inl ht
    · subst ht; exact .inr ⟨ha, hm, rfl, rfl⟩
  case swapBuffers => exact .inr ⟨ha, hm, rfl, ht⟩
  case fbWrite ch y x v =>
    split at ht
    · exact .inl ht
    · rename_i c hc
      split at ht
      · exact .inl ht
      · split at ht
        · exact .inl ht
        · rename_i h1 h2
          right
          refine ⟨ha, hm, ?_, c, by omega, by omega, by simpa using h2, ht⟩
          unfold channelOperand at hc
          simp only [Instr.wellFormed]
          split at hc
          · rename_i h; subst h; rfl
          · split at hc
            · rename_i h; subst h; rfl
            · split at hc
              · rename_i h; subst h; rfl
              · simp at hc

/-! ## The outcomes of an operation, as one list -/

/-- The outcomes of an operation, the ends of a pulse train told apart. -/
inductive Outcomes (s : State) : Instr → State → Prop where
  | refused (i : Instr) : Outcomes s i s.refuse
  | loadcfg (reg : BitVec 8) (val : Word) (c : ConfigRegs) (ha : s.agent = .host) (hm : s.mode = .reset)
      (hc : s.cfg.write reg.toNat val = some c) :
      Outcomes s (.loadcfg reg val) (State.respond { s with cfg := c } .ok 0)
  | query (i : Instr) (r : Reply) (hr : i ≠ .reset) : Outcomes s i { s with reply := r }
  | configureDivider (d : Word) (ha : s.agent = .adapter) :
      Outcomes s (.configureDivider d) (s.programDivider d).quiet
  | initFails (e : FatalError) (m : Word) (st : Status) (he : e = .configuration ∨ e = .binding)
      (ha : s.agent = .host) (hm : s.mode = .reset) : Outcomes s .init ((s.fatalEntry e m).respond st m)
  | init (h1 : validateMask s.cfg ||| geometryMask s.cfg = 0) (h2 : bindingMask s.cfg = 0)
      (ha : s.agent = .host) (hm : s.mode = .reset) : Outcomes s .init (s.configure.respond .ok 0)
  | start (ha : s.agent = .host) (hm : s.mode = .configured ∨ s.mode = .stopped) :
      Outcomes s .start (State.respond { s with
        bus := if s.bus.pinsActive then s.bus else s.bus.activatePins s.cfg.addressLines
        shutdownReq := false
        mode := .running } .ok 0)
  | shutdown (ha : s.agent = .host) (hm : s.mode = .running) :
      Outcomes s .shutdown (State.respond { s with shutdownReq := true } .ok 0)
  | reset (ha : s.agent = .host) (hm : s.mode ≠ .running) :
      Outcomes s .reset (s.resetRegisters.respond .ok 0)
  | tickStop (ha : s.agent = .scheduler) (hm : s.mode = .running) (hf : s.fsm = .idle)
      (hr : s.shutdownReq = true) :
      Outcomes s .tick (State.stop { s with bus := s.bus.advance s.env.gap }).quiet
  | tickSwap (ha : s.agent = .scheduler) (hm : s.mode = .running) (hf : s.fsm = .idle)
      (hr : s.shutdownReq = false) (hp : s.pos = Pos.origin) (hs : s.swapPending = true) :
      Outcomes s .tick (State.beginCycle { s with
        bus := s.bus.advance s.env.gap
        activeBuf := !s.activeBuf
        swapPending := false }).quiet
  | tick (ha : s.agent = .scheduler) (hm : s.mode = .running) (hf : s.fsm = .idle)
      (hr : s.shutdownReq = false) :
      Outcomes s .tick (State.beginCycle { s with bus := s.bus.advance s.env.gap }).quiet
  | select (ha : s.agent = .scheduler) (hm : s.mode = .running) (hf : s.fsm = .selectPlane)
      (hr : s.env.ready = true) :
      Outcomes s .select (State.quiet { s with
        rowbuf := { s.rowbuf with
          words := s.fb.rowPlane s.cfg s.activeBuf s.curRow.toNat s.curPlane.toNat }
        bus := s.bus.blankThenAddress s.cfg.addressLines s.curRow
        fsm := .shifting })
  | skip (ha : s.agent = .scheduler) (hm : s.mode = .running) (hf : s.fsm = .selectPlane)
      (hr : s.env.ready = false) : Outcomes s .select s.skipCycle.quiet
  | shiftDone (c : Bus) (ha : s.agent = .scheduler) (hm : s.mode = .running) (hf : s.fsm = .shifting)
      (hb : s.trainBusy = false)
      (hc : s.bus.pulseTrain s.trainTiming s.rowbuf.word s.env.stallOf s.cfg.rowPixels.toNat
        = .complete c) :
      Outcomes s .shiftDone (State.quiet { s with bus := c, fsm := .latching })
  | overrun (k : Nat) (c : Bus) (ha : s.agent = .scheduler) (hm : s.mode = .running)
      (hf : s.fsm = .shifting) (hb : s.trainBusy = false)
      (hc : s.bus.pulseTrain s.trainTiming s.rowbuf.word s.env.stallOf s.cfg.rowPixels.toNat
        = .overrun k c) :
      Outcomes s .shiftDone (State.quiet (State.fatalEntry { s with trainBusy := true, bus := c }
        .timingViolation (overrunInfo k)))
  | overlap (ha : s.agent = .scheduler) (hm : s.mode = .running) (hf : s.fsm = .shifting)
      (hb : s.trainBusy = true) :
      Outcomes s .shiftDone (State.quiet (s.fatalEntry .timingViolation overlapInfo))
  | latchDone (ha : s.agent = .scheduler) (hm : s.mode = .running) (hf : s.fsm = .latching) :
      Outcomes s .latchDone (State.quiet { s with
        bus := s.bus.latchAndShow s.cfg.latchDelayTu s.cfg.latchPulseTu
        fsm := .blanking })
  | blankDone (ha : s.agent = .scheduler) (hm : s.mode = .running) (hf : s.fsm = .blanking)
      (hr : s.shutdownReq = false) :
      Outcomes s .blankDone (State.quiet { (State.cycleComplete
        { s with bus := s.bus.onTimeThenBlank s.cfg.onTimeTu } .complete).advancePos with fsm := .idle })
  | blankStop (ha : s.agent = .scheduler) (hm : s.mode = .running) (hf : s.fsm = .blanking)
      (hr : s.shutdownReq = true) :
      Outcomes s .blankDone (State.stop { (State.cycleComplete
        { s with bus := s.bus.onTimeThenBlank s.cfg.onTimeTu } .complete).advancePos with
          fsm := .idle }).quiet
  | emitOverlap (plane : BitVec 8) (row : BitVec 16) (ha : s.agent = .sequencer)
      (hf : s.fsm ≠ .selectPlane ∨ s.trainBusy = true) :
      Outcomes s (.emit plane row)
        { s.fatalEntry .timingViolation overlapInfo with reply := .cycleResult .aborted }
  | emit (plane : BitVec 8) (row : BitVec 16) (c : Bus) (ha : s.agent = .sequencer)
      (hf : s.fsm = .selectPlane) (hb : s.trainBusy = false)
      (hc : (s.bus.blankThenAddress s.cfg.addressLines row).pulseTrain s.trainTiming s.rowbuf.word
        s.env.stallOf s.cfg.rowPixels.toNat = .complete c) :
      Outcomes s (.emit plane row)
        { State.latchShowComplete { s with bus := c } with reply := .cycleResult .complete }
  | emitOverrun (plane : BitVec 8) (row : BitVec 16) (k : Nat) (c : Bus) (ha : s.agent = .sequencer)
      (hf : s.fsm = .selectPlane) (hb : s.trainBusy = false)
      (hc : (s.bus.blankThenAddress s.cfg.addressLines row).pulseTrain s.trainTiming s.rowbuf.word
        s.env.stallOf s.cfg.rowPixels.toNat = .overrun k c) :
      Outcomes s (.emit plane row)
        { State.fatalEntry { s with trainBusy := true, bus := c } .timingViolation (overrunInfo k) with
          reply := .cycleResult .aborted }
  | train (n : Word) (c : Bus) (ha : s.agent = .adapter) (hb : s.trainBusy = false)
      (hc : s.bus.pulseTrain s.trainTiming s.rowbuf.word s.env.stallOf n.toNat = .complete c) :
      Outcomes s (.startPulseTrain n) (State.quiet { s with bus := c })
  | trainOverrun (n : Word) (k : Nat) (c : Bus) (ha : s.agent = .adapter) (hb : s.trainBusy = false)
      (hc : s.bus.pulseTrain s.trainTiming s.rowbuf.word s.env.stallOf n.toNat = .overrun k c) :
      Outcomes s (.startPulseTrain n) (State.quiet (State.fatalEntry
        { s with trainBusy := true, bus := c } .timingViolation (overrunInfo k)))
  | trainOverlap (n : Word) (ha : s.agent = .adapter) (hb : s.trainBusy = true) :
      Outcomes s (.startPulseTrain n) (State.quiet (s.fatalEntry .timingViolation overlapInfo))
  | onCycleComplete (a : BitVec 8) (r : CycleResult) (ha : s.agent = .adapter) :
      Outcomes s (.onCycleComplete a) (s.cycleComplete r).quiet
  | swapBuffers (ha : s.agent = .producer)
      (hm : s.mode = .configured ∨ s.mode = .running ∨ s.mode = .stopped) :
      Outcomes s .swapBuffers (State.respond { s with swapPending := true } .ok 0)
  | fbWrite (ch : BitVec 8) (y x v : BitVec 16) (c : Channel) (ha : s.agent = .producer)
      (hm : s.mode = .configured ∨ s.mode = .running ∨ s.mode = .stopped)
      (hs : s.swapPending = false) :
      Outcomes s (.fbWrite ch y x v) (State.respond
        { s with fb := s.fb.write s.cfg.colorDepth.toNat (!s.activeBuf) y.toNat x.toNat c v } .ok 0)

/-- Every next state of an operation is one of its outcomes. -/
theorem exec_outcomes (i : Instr) (s t : State) (h : exec i s = .next t) : Outcomes s i t := by
  obtain rfl | ⟨ha, hm, -, he⟩ := exec_cases i s t h
  · exact .refused i
  cases i <;> simp only [Effect, agentsOf, modesOf, List.mem_cons, List.not_mem_nil, or_false] at he ha hm
  case loadcfg => obtain ⟨c, hc, rfl⟩ := he; exact .loadcfg _ _ c ha hm hc
  case validate => rw [he]; exact .query _ _ (by simp)
  case bind => rw [he]; exact .query _ _ (by simp)
  case configureDivider => rw [he]; exact .configureDivider _ ha
  case init =>
    obtain ⟨e, m, st, hE, rfl⟩ | ⟨h1, h2, rfl⟩ := he
    · exact .initFails e m st hE ha hm
    · exact .init h1 h2 ha hm
  case start => rw [he]; exact .start ha hm
  case shutdown => rw [he]; exact .shutdown ha hm
  case reset => rw [he]; exact .reset ha (by rintro h; simp [h] at hm)
  case statusRead => rw [he]; exact .query _ _ (by simp)
  case tick =>
    obtain ⟨hf, ⟨hr, rfl⟩ | ⟨hr, rfl⟩⟩ := he
    · exact .tickStop ha hm hf hr
    · unfold State.applySwapIfBoundary
      split
      · rename_i h; exact .tickSwap ha hm hf hr h.1 h.2
      · exact .tick ha hm hf hr
  case select =>
    obtain ⟨hf, ⟨hr, rfl⟩ | ⟨hr, rfl⟩⟩ := he
    · exact .select ha hm hf hr
    · exact .skip ha hm hf hr
  case shiftDone =>
    obtain ⟨hf, rfl⟩ := he
    obtain ⟨c, hb, hc, h⟩ | ⟨k, c, hb, hc, h⟩ | ⟨hb, h⟩ := s.pulseTrain_cases s.cfg.rowPixels.toNat
      (fun t => State.quiet { t with fsm := .latching }) (fun t => t.quiet)
    · rw [h]; exact .shiftDone c ha hm hf hb hc
    · rw [h]; exact .overrun k c ha hm hf hb hc
    · rw [h]; exact .overlap ha hm hf hb
  case latchDone => rw [he.2]; exact .latchDone ha hm he.1
  case blankDone =>
    obtain ⟨hf, u, rfl, ⟨hr, rfl⟩ | ⟨hr, rfl⟩⟩ := he
    · exact .blankStop ha hm hf hr
    · exact .blankDone ha hm hf hr
  case emit plane row =>
    obtain ⟨hf, rfl⟩ | ⟨hf, hb, rfl⟩ := he
    · exact .emitOverlap _ _ ha hf
    · obtain ⟨c, hb, hc, h⟩ | ⟨k, c, hb, hc, h⟩ | ⟨hb', h⟩ := State.pulseTrain_cases
        { s with bus := s.bus.blankThenAddress s.cfg.addressLines row } s.cfg.rowPixels.toNat
        (fun t => { t.latchShowComplete with reply := .cycleResult .complete })
        (fun t => { t with reply := .cycleResult .aborted })
      · rw [h]; exact .emit plane row c ha hf hb hc
      · rw [h]; exact .emitOverrun plane row k c ha hf hb hc
      · simp [hb] at hb'
  case startPulseTrain n =>
    rw [he]
    obtain ⟨c, hb, hc, h⟩ | ⟨k, c, hb, hc, h⟩ | ⟨hb, h⟩ := s.pulseTrain_cases n.toNat
      (fun t => t.quiet) (fun t => t.quiet)
    · rw [h]; exact .train n c ha hb hc
    · rw [h]; exact .trainOverrun n k c ha hb hc
    · rw [h]; exact .trainOverlap n ha hb
  case onCycleComplete => obtain ⟨r, rfl⟩ := he; exact .onCycleComplete _ r ha
  case getActiveRowPlane => rw [he]; exact .query _ _ (by simp)
  case swapBuffers => rw [he]; exact .swapBuffers ha hm
  case fbWrite => obtain ⟨c, -, -, hs, rfl⟩ := he; exact .fbWrite _ _ _ _ c ha hm hs

/-! ## The Scheduler on its own, and a run of steps -/

/-- With an empty inbox the Scheduler takes the operation of its FSM state (log 4). -/
theorem step_scheduler (s : State) (f : FsmState) (hi : s.inbox = []) (hm : s.mode = .running)
    (hf : s.fsm = f) : step s = exec f.operation { s with agent := .scheduler } := by
  unfold step
  split
  · unfold State.runFreely; rw [if_pos hm, ← hf]; rfl
  · simp_all

theorem host_run_succ (M : Host.Core) (n : Nat) (s t : M.State) (h : M.step s = .next t) :
    M.run (n + 1) s = M.run n t := by
  rw [Host.Core.run, h]

/-- A run of the machine, peeled by one step. -/
theorem core_run_succ (n : Nat) (s t : State) (h : step s = .next t) :
    Sys2Proof.core.run (n + 1) s = Sys2Proof.core.run n t :=
  host_run_succ Sys2Proof.core n s t h

end Sys2Proof.Machine
end

