-- ==== Sys2Proof/Laws/Panel.lean ====
section
/-! SUPPORT. What the reference panel observer of 00_scope.md R12 makes of each drive: a rising `CLK`
takes in one word, a rising `LAT` copies the shift register, and after a completed train the words of
its columns have entered in order (42_sequencer.md R143 to R145). -/

namespace Sys2Proof.Machine

theorem Panel.observe_append (width : Nat) (p : Panel) (new past : List Event) :
    p.observe width (new ++ past) = (p.observe width past).observe width new := by
  induction new with
  | nil => rfl
  | cons e new ih => simp [Panel.observe, ih]

/-- From the trace `base` on, an observer that started as `p₀` sees the lines of `b` as they are, and
holds `shift` and `out`. -/
def Bus.Observed (width : Nat) (p₀ : Panel) (base : List Event) (b : Bus) (shift out : List (BitVec 6)) :
    Prop :=
  b.pinsActive = true ∧ ∃ new, b.wave = new ++ base ∧ ∃ p, p₀.observe width new = p ∧
    p.levels = { oe := b.oe, lat := b.lat, clk := b.clk } ∧ p.data = b.data ∧ p.addr = b.addr ∧
    p.shift = shift ∧ p.out = out

namespace Bus.Observed

variable {width : Nat} {p₀ : Panel} {base : List Event} {b : Bus} {shift out : List (BitVec 6)}

theorem start (hp : b.pinsActive = true) (hl : p₀.levels = { oe := b.oe, lat := b.lat, clk := b.clk })
    (hd : p₀.data = b.data) (ha : p₀.addr = b.addr) : Observed width p₀ b.wave b p₀.shift p₀.out :=
  ⟨hp, [], rfl, p₀, rfl, hl, hd, ha, rfl, rfl⟩

theorem advance (h : Observed width p₀ base b shift out) (d : Nat) :
    Observed width p₀ base (b.advance d) shift out := h

/-- One recorded event. -/
theorem driveRecorded (h : Observed width p₀ base b shift out) (l : Line) (v : Bool)
    (shift' out' : List (BitVec 6))
    (hs : ∀ p : Panel, p.levels = { oe := b.oe, lat := b.lat, clk := b.clk } → p.data = b.data →
      p.addr = b.addr → p.shift = shift → p.out = out →
      let p' := p.see width { time := b.now, line := l, value := v }
      p'.levels = { oe := (b.driveRecorded l v).oe, lat := (b.driveRecorded l v).lat,
                    clk := (b.driveRecorded l v).clk } ∧
      p'.data = (b.driveRecorded l v).data ∧ p'.addr = (b.driveRecorded l v).addr ∧ p'.shift = shift' ∧ p'.out = out') :
    Observed width p₀ base (b.driveRecorded l v) shift' out' := by
  obtain ⟨hp, new, hw, p, ho, hl, hd, ha, hsh, hou⟩ := h
  refine ⟨by simpa using hp, { time := b.now, line := l, value := v } :: new, ?_, _, rfl, ?_⟩
  · rw [driveRecorded_wave, if_pos hp, hw]; rfl
  · have := hs p hl hd ha hsh hou
    rwa [← ho] at this

theorem drive_data (h : Observed width p₀ base b shift out) (hl : b.lat = false) (i : Fin 6) (v : Bool) :
    Observed width p₀ base (b.drive (.data i) v) shift out := by
  by_cases hv : b.level (.data i) = v
  · rwa [drive_same _ _ _ hv]
  · rw [drive_change _ _ _ hv]
    refine h.driveRecorded _ _ _ _ fun p h1 h2 ha h3 h4 => ?_
    simp [Panel.see, Panel.clocked, Panel.lines, Panel.latched, h1, h2, ha, h3, h4, hl, driveRecorded_oe,
      driveRecorded_lat, driveRecorded_clk, driveRecorded_data, driveRecorded_addr]

theorem driveData (h : Observed width p₀ base b shift out) (hl : b.lat = false) (word : BitVec 6) :
    Observed width p₀ base (b.driveData word) shift out := by
  refine (foldl_drive (fun c => Observed width p₀ base c shift out ∧ c.lat = false)
    (fun i : Fin 6 => .data i) (fun i => word.getLsbD i) dataLines ?_ b ⟨h, hl⟩).1
  rintro c a - ⟨h, hl⟩
  exact ⟨h.drive_data hl _ _, by simpa using hl⟩

theorem drive_addr (h : Observed width p₀ base b shift out) (hl : b.lat = false) (i : Fin 16) (v : Bool) :
    Observed width p₀ base (b.drive (.addr i) v) shift out := by
  by_cases hv : b.level (.addr i) = v
  · rwa [drive_same _ _ _ hv]
  · rw [drive_change _ _ _ hv]
    refine h.driveRecorded _ _ _ _ fun p h1 h2 ha h3 h4 => ?_
    simp [Panel.see, Panel.clocked, Panel.lines, Panel.latched, h1, h2, ha, h3, h4, hl, driveRecorded_oe,
      driveRecorded_lat, driveRecorded_clk, driveRecorded_data, driveRecorded_addr]

/-- The address changes only what the observer sees of `ADDR` (00_scope.md R12), the output being off. -/
theorem blankThenAddress (h : Observed width p₀ base b shift out) (ho : b.oe = false) (hl : b.lat = false)
    (lines : Nat) (row : BitVec 16) : Observed width p₀ base (b.blankThenAddress lines row) shift out := by
  rw [Bus.blankThenAddress, drive_same b .oe false ho]
  refine (foldl_drive (fun c => Observed width p₀ base c shift out ∧ c.lat = false)
    (fun i : Fin 16 => .addr i) (fun i => row.getLsbD i) (addrLines lines) ?_ b ⟨h, hl⟩).1
  rintro c a - ⟨h, hl⟩
  exact ⟨h.drive_addr hl _ _, by simpa using hl⟩

theorem drive_clk_rise (h : Observed width p₀ base b shift out) (hl : b.lat = false)
    (hc : b.clk = false) :
    Observed width p₀ base (b.drive .clk true) ((b.data :: shift).take width) out := by
  rw [drive_change _ _ _ (by simp [level, hc])]
  refine h.driveRecorded _ _ _ _ fun p h1 h2 ha h3 h4 => ?_
  simp [Panel.see, Panel.clocked, Panel.lines, Panel.latched, Levels.apply, h1, h2, ha, h3, h4, hl, hc,
    driveRecorded_oe, driveRecorded_lat, driveRecorded_clk, driveRecorded_data, driveRecorded_addr]

theorem drive_clk_fall (h : Observed width p₀ base b shift out) (hl : b.lat = false) :
    Observed width p₀ base (b.drive .clk false) shift out := by
  by_cases hv : b.level .clk = false
  · rwa [drive_same _ _ _ hv]
  · rw [drive_change _ _ _ hv]
    refine h.driveRecorded _ _ _ _ fun p h1 h2 ha h3 h4 => ?_
    simp [Panel.see, Panel.clocked, Panel.lines, Panel.latched, Levels.apply, h1, h2, ha, h3, h4, hl,
      driveRecorded_oe, driveRecorded_lat, driveRecorded_clk, driveRecorded_data, driveRecorded_addr]

theorem pixel (h : Observed width p₀ base b shift out) (hl : b.lat = false) (hc : b.clk = false)
    (half : Nat) (word : BitVec 6) :
    Observed width p₀ base (b.pixel half word) ((word :: shift).take width) out := by
  have h1 := ((h.driveData hl word).advance half).drive_clk_rise (by simpa using hl) (by simpa using hc)
  rw [advance_data, driveData_data] at h1
  exact (h1.advance half).drive_clk_fall (by simpa using hl)

/-- Each column's word enters at position 0 (00_scope.md R12, 42_sequencer.md R145). -/
theorem pixels (h : Observed width p₀ base b shift out) (hs : shift.length ≤ width) (hl : b.lat = false)
    (hc : b.clk = false) (half : Nat) (word : Nat → BitVec 6) (xs : List Nat) :
    Observed width p₀ base (b.pixels half word xs) (((xs.map word).reverse ++ shift).take width) out := by
  induction xs generalizing b shift with
  | nil => simpa [Bus.pixels, List.take_of_length_le hs] using h
  | cons x xs ih =>
    have := ih (h.pixel hl hc half (word x)) (by simp) (by simpa using hl) (by simp)
    simp only [Bus.pixels, List.foldl_cons] at this ⊢
    have e : ∀ (a c : List (BitVec 6)), (a ++ c.take width).take width = (a ++ c).take width := by
      intro a c; simp [List.take_append, List.take_take]
    rw [e] at this
    simpa using this

theorem transfers (t : TrainTiming) (word : Nat → BitVec 6) (stall : Nat → Nat) (n fuel k : Nat)
    (h : Observed width p₀ base b shift out) (hs : shift.length ≤ width) (hl : b.lat = false)
    (hc : b.clk = false) (c : Bus) (ht : b.transfers t word stall n fuel k = .complete c) :
    Observed width p₀ base c ((((columnsFrom n fuel k).map word).reverse ++ shift).take width) out := by
  induction fuel generalizing k b shift with
  | zero =>
    simp only [Bus.transfers, TrainOutcome.complete.injEq] at ht
    subst ht
    simpa [columnsFrom, List.take_of_length_le hs] using h
  | succ fuel ih =>
    unfold Bus.transfers at ht
    split at ht
    · have := ih (k + 1) ((h.advance (stall k)).pixels hs hl hc t.half word (transferColumns n k))
        (by simp) (by simpa using hl) (pixels_clk _ _ _ _ (by simpa using hc)) ht
      have e : ∀ (a c : List (BitVec 6)), (a ++ c.take width).take width = (a ++ c).take width := by
        intro a c; simp [List.take_append, List.take_take]
      rw [e] at this
      simpa [columnsFrom] using this
    · exact absurd ht (by simp)

/-- The latch copies the shift register into the output register (00_scope.md R12, 42_sequencer.md
R149 to R151). -/
theorem latchAndShow (h : Observed width p₀ base b shift out) (ho : b.oe = false) (hl : b.lat = false)
    (delay pulse : Nat) : Observed width p₀ base (b.latchAndShow delay pulse) shift shift := by
  have h1 : Observed width p₀ base ((b.advance delay).drive .lat true) shift shift := by
    rw [drive_change _ _ _ (by simp [level, hl])]
    refine (h.advance delay).driveRecorded _ _ _ _ fun p h1 h2 ha h3 h4 => ?_
    simp [Panel.see, Panel.clocked, Panel.lines, Panel.latched, Levels.apply, h1, h2, ha, h3,
      driveRecorded_oe, driveRecorded_lat, driveRecorded_clk, driveRecorded_data, driveRecorded_addr]
  have h2 : Observed width p₀ base
      ((((b.advance delay).drive .lat true).advance pulse).drive .lat false) shift shift := by
    rw [drive_change _ _ _ (by simp [level])]
    refine (h1.advance pulse).driveRecorded _ _ _ _ fun p h1 h2 ha h3 h4 => ?_
    simp [Panel.see, Panel.clocked, Panel.lines, Panel.latched, Levels.apply, h1, h2, ha, h3, h4,
      driveRecorded_oe, driveRecorded_lat, driveRecorded_clk, driveRecorded_data, driveRecorded_addr]
  rw [Bus.latchAndShow, drive_change _ .oe true (by simp [level, ho])]
  refine h2.driveRecorded _ _ _ _ fun p h1 h2 ha h3 h4 => ?_
  simp [Panel.see, Panel.clocked, Panel.lines, Panel.latched, Levels.apply, h1, h2, ha, h3, h4,
    driveRecorded_oe, driveRecorded_lat, driveRecorded_clk, driveRecorded_data, driveRecorded_addr]

end Bus.Observed

/-- An LED is lit exactly when the output is on, its row pair is addressed and its bit is 1 (00_scope.md
R12). -/
theorem Panel.lit_iff (p : Panel) (led : Led) : p.lit led = true ↔
    p.levels.oe = true ∧ led.pair = p.addr ∧ (p.out[led.position]?.getD 0).getLsbD led.bit = true := by
  simp [Panel.lit, and_assoc]

/-- In the reversed row, column 0 stands at position `W − 1` (42_sequencer.md R144). -/
theorem reversed_row_bit (words : List (BitVec 6)) (position bit : Nat) :
    (words.reverse[position]?.getD 0).getLsbD bit = true ↔
      position < words.length ∧ (words[words.length - 1 - position]?.getD 0).getLsbD bit = true := by
  by_cases h : position < words.length
  · rw [List.getElem?_reverse h]; simp [h]
  · simp [h]

end Sys2Proof.Machine
end

