-- ==== Sys2Proof/Laws/PerInstr.lean ====
section
/-! SUPPORT. Statements made for each operation as syntax. The family `TableRow`: the word of an
operation matches the operation's own row of spec/opcode_table.json, `w & mask = match`
(30_encoding.md R84). -/

namespace Sys2Proof.Laws.TableRow

/-- The encoded word matches the operation's row. -/
def Statement (i : Instr) : Prop := encode i &&& tableMask i = tableMatch i

/-- A packed word under a mask, field by field. -/
theorem pack_and (op a op' a' : BitVec 8) (b b' : BitVec 16) (c c' : BitVec 32) :
    pack op a b c &&& pack op' a' b' c' = pack (op &&& op') (a &&& a') (b &&& b') (c &&& c') := by
  unfold pack
  apply BitVec.eq_of_getLsbD_eq
  intro i _
  simp only [BitVec.getLsbD_and, BitVec.getLsbD_append]
  split
  · rfl
  · split
    · rfl
    · split <;> rfl

theorem loadcfg (reg : BitVec 8) (val : Word) : Statement (.loadcfg reg val) := by
  show encode _ &&& pack 0xFF#8 0x00#8 0xFFFF#16 0x00000000#32 = _
  simp only [encode, pack_and, BitVec.and_zero]
  rfl

theorem validate : Statement .validate := by unfold Statement; decide

theorem bind (role : BitVec 8) : Statement (.bind role) := by
  show encode _ &&& pack 0xFF#8 0x00#8 0xFFFF#16 0xFFFFFFFF#32 = _
  simp only [encode, pack_and, BitVec.and_zero]
  rfl

theorem configureDivider (div : Word) : Statement (.configureDivider div) := by
  show encode _ &&& pack 0xFF#8 0xFF#8 0xFFFF#16 0x00000000#32 = _
  simp only [encode, pack_and, BitVec.and_zero]
  rfl

theorem init : Statement .init := by unfold Statement; decide

theorem start : Statement .start := by unfold Statement; decide

theorem shutdown : Statement .shutdown := by unfold Statement; decide

theorem reset : Statement .reset := by unfold Statement; decide

theorem statusRead (reg : BitVec 8) : Statement (.statusRead reg) := by
  show encode _ &&& pack 0xFF#8 0x00#8 0xFFFF#16 0xFFFFFFFF#32 = _
  simp only [encode, pack_and, BitVec.and_zero]
  rfl

theorem tick : Statement .tick := by unfold Statement; decide

theorem select : Statement .select := by unfold Statement; decide

theorem shiftDone : Statement .shiftDone := by unfold Statement; decide

theorem latchDone : Statement .latchDone := by unfold Statement; decide

theorem blankDone : Statement .blankDone := by unfold Statement; decide

theorem emit (plane : BitVec 8) (row : BitVec 16) : Statement (.emit plane row) := by
  show encode _ &&& pack 0xFF#8 0x00#8 0x0000#16 0xFFFFFFFF#32 = _
  simp only [encode, pack_and, BitVec.and_zero]
  rfl

theorem startPulseTrain (count : Word) : Statement (.startPulseTrain count) := by
  show encode _ &&& pack 0xFF#8 0xFF#8 0xFFFF#16 0x00000000#32 = _
  simp only [encode, pack_and, BitVec.and_zero]
  rfl

theorem onCycleComplete (result : BitVec 8) : Statement (.onCycleComplete result) := by
  show encode _ &&& pack 0xFF#8 0x00#8 0xFFFF#16 0xFFFFFFFF#32 = _
  simp only [encode, pack_and, BitVec.and_zero]
  rfl

theorem getActiveRowPlane (plane : BitVec 8) (row : BitVec 16) : Statement (.getActiveRowPlane plane row) := by
  show encode _ &&& pack 0xFF#8 0x00#8 0x0000#16 0xFFFFFFFF#32 = _
  simp only [encode, pack_and, BitVec.and_zero]
  rfl

theorem swapBuffers : Statement .swapBuffers := by unfold Statement; decide

theorem fbWrite (ch : BitVec 8) (y x val : BitVec 16) : Statement (.fbWrite ch y x val) := by
  show encode _ &&& pack 0xFF#8 0x00#8 0x0000#16 0x00000000#32 = _
  simp only [encode, pack_and, BitVec.and_zero]
  rfl

end Sys2Proof.Laws.TableRow
end

