-- ==== Sys2Proof/Laws/Schedule.lean ====
section
/-! SUPPORT. The weighted round-robin: divisibility by powers of two, the planes of a tick, and what one
successor does (41_scheduler.md R123, R124, R126). -/

namespace Sys2Proof.Machine

theorem trailingZeros_le (fuel t : Nat) : trailingZeros fuel t ≤ fuel := by
  induction fuel generalizing t with
  | zero => simp [trailingZeros]
  | succ fuel ih =>
    unfold trailingZeros
    split
    · omega
    · have := ih (t / 2); omega

/-- `2^j` divides `t` exactly when `j` is at most the number of trailing zeros (00_scope.md R7). -/
theorem mod_pow_eq_zero_iff (fuel t j : Nat) (hj : j ≤ fuel) :
    t % 2 ^ j = 0 ↔ j ≤ trailingZeros fuel t := by
  induction fuel generalizing t j with
  | zero => simp [show j = 0 by omega, Nat.mod_one]
  | succ fuel ih =>
    cases j with
    | zero => simp [Nat.mod_one]
    | succ j =>
      unfold trailingZeros
      have hp : (2 : Nat) ^ (j + 1) = 2 * 2 ^ j := by rw [Nat.pow_succ]; ring
      have hm : t % (2 * 2 ^ j) = t % 2 + 2 * (t / 2 % 2 ^ j) := Nat.mod_mul
      split
      · rename_i h
        rw [hp, hm]
        omega
      · rename_i h
        have := ih (t / 2) j (by omega)
        rw [hp, hm]
        omega

theorem firstPlane_eq (depth t : Nat) : firstPlane depth t = depth - 1 - trailingZeros (depth - 1) t := by
  unfold firstPlane
  split
  · rename_i h
    have := (mod_pow_eq_zero_iff (depth - 1) t (depth - 1) (Nat.le_refl _)).1 (by simp [h])
    omega
  · rfl

theorem firstPlane_lt (depth t : Nat) (h : 1 ≤ depth) : firstPlane depth t < depth := by
  rw [firstPlane_eq]; omega

/-- The lowest plane due is the first one (41_scheduler.md R123). -/
theorem firstPlane_le_iff (depth p t : Nat) (hp : p < depth) :
    firstPlane depth t ≤ p ↔ t % 2 ^ (depth - 1 - p) = 0 := by
  rw [mod_pow_eq_zero_iff (depth - 1) t (depth - 1 - p) (by omega), firstPlane_eq]
  omega

/-- The multiples of `m` below `m * n`. -/
theorem sum_multiples (m n : Nat) (hm : 1 ≤ m) :
    ((List.range (m * n)).map fun t => if t % m = 0 then 1 else 0).sum = n := by
  induction n with
  | zero => simp
  | succ n ih =>
    have hz : ((List.range m).map fun i => if (m * n + i) % m = 0 then 1 else 0).sum = 1 := by
      obtain ⟨k, rfl⟩ : ∃ k, m = k + 1 := ⟨m - 1, by omega⟩
      rw [List.range_succ_eq_map]
      simp only [List.map_cons, List.map_map, List.sum_cons, Nat.add_zero, Nat.mul_mod_right, if_true]
      have : ((List.range k).map ((fun i => if ((k + 1) * n + i) % (k + 1) = 0 then 1 else 0) ∘ Nat.succ)).sum
          = 0 := by
        apply List.sum_eq_zero
        intro x hx
        obtain ⟨i, hi, rfl⟩ := List.mem_map.1 hx
        rw [List.mem_range] at hi
        simp only [Function.comp, Nat.mul_add_mod, Nat.succ_eq_add_one]
        rw [if_neg]
        rw [Nat.mod_eq_of_lt (by omega)]; omega
      rw [this]
    rw [Nat.mul_succ, List.range_add, List.map_append, List.sum_append, ih, List.map_map]
    exact congrArg (n + ·) hz

theorem mem_planesAt (depth t p : Nat) (h : 1 ≤ depth) :
    p ∈ planesAt depth t ↔ firstPlane depth t ≤ p ∧ p < depth := by
  have := firstPlane_lt depth t h
  rw [planesAt, List.mem_range'_1]; omega

theorem planesAt_nodup (depth t : Nat) : (planesAt depth t).Nodup := List.nodup_range'

/-! ## One successor -/

/-- While planes are still due at the tick, the next plane (41_scheduler.md R126). -/
theorem Pos.succ_plane (rows depth : Nat) (p : Pos) (h : p.plane.toNat + 1 < depth) :
    p.succ rows depth = { p with plane := p.plane + 1 } := by simp [Pos.succ, h]

/-- After the last plane, the first plane of the next tick. -/
theorem Pos.succ_tick (rows depth : Nat) (p : Pos) (h : depth ≤ p.plane.toNat + 1)
    (ht : p.tick.toNat + 1 < ticksPerRow depth) :
    p.succ rows depth =
      { row := p.row
        tick := BitVec.ofNat 16 (p.tick.toNat + 1)
        plane := BitVec.ofNat 4 (firstPlane depth (p.tick.toNat + 1)) } := by
  simp [Pos.succ, show ¬ p.plane.toNat + 1 < depth by omega, Nat.mod_eq_of_lt ht]

/-- After the last tick, the next row address. -/
theorem Pos.succ_row (rows depth : Nat) (p : Pos) (h : depth ≤ p.plane.toNat + 1)
    (ht : p.tick.toNat + 1 = ticksPerRow depth) :
    p.succ rows depth =
      { row := BitVec.ofNat 16 ((p.row.toNat + 1) % rows), tick := 0, plane := 0 } := by
  simp [Pos.succ, show ¬ p.plane.toNat + 1 < depth by omega, ht, firstPlane]

end Sys2Proof.Machine
end

