-- ==== Sys2Proof/Tests/Slice0.lean ====
section
/-! SUPPORT. Tests of single operations with the results that 95_test_vectors.md gives, the decoding of
one written-out word for every row of the table, ill-formed operands, and for every statement with
hypotheses a state and operands that meet them (`witness_…`). -/

namespace Sys2Proof.Tests

open Sys2Proof Sys2Proof.Machine

/-! ## States -/

/-- The example configuration of 95_test_vectors.md with the binding of P1: N = 2, H = 4, W = 32. -/
def exampleCfg : ConfigRegs where
  latchPulseWidthNs := 50
  latchToClockDelayNs := 30
  clockDivider := 24
  baseClockMhz := 480
  fixedOverheadNs := 50
  colorDepth := 2
  panelRows := 4
  rowPixels := 32
  onUnitNs := 1000
  clockMode := 0
  bind := #v[0x80000000, 0x80000001, 0x80000002, 0, 0x80000004, 0x80000005, 0x80000006, 0x80000007,
    0x80000008, 0x80000009, 0x8000000A, 0, 0, 0, 0, 0, 0, 0, 0, 0, 0, 0, 0, 0, 0, 0]

/-- The registers loaded, before `INIT`. -/
def loaded : State := { State.reset with cfg := exampleCfg }

/-- After `INIT` (P1, command 23). -/
def configured : State :=
  { loaded with
    mode := .configured
    divCfg := 24
    fb := { cells := [], shape := exampleCfg.shape, epoch := 1 } }

/-- After `START` (P1, command 28): ten events at time 0, and the Scheduler is next. -/
def running : State :=
  { configured with
    mode := .running
    agent := .scheduler
    bus := { Bus.reset with
      pinsActive := true
      wave := [⟨0, .addr 0, false⟩, ⟨0, .data 5, false⟩, ⟨0, .data 4, false⟩, ⟨0, .data 3, false⟩,
        ⟨0, .data 2, false⟩, ⟨0, .data 1, false⟩, ⟨0, .data 0, false⟩, ⟨0, .clk, false⟩,
        ⟨0, .lat, false⟩, ⟨0, .oe, false⟩] } }

/-- In SelectPlane. -/
def selecting : State := { running with fsm := .selectPlane }

/-- In Shifting, `ROWBUF` as in V7. -/
def shifting : State :=
  { running with
    fsm := .shifting
    rowbuf := { words := List.replicate 5 0 ++ [1] ++ List.replicate 26 0, generation := 0 } }

/-- In Latching, at 1600 ns. -/
def latching : State := { shifting with fsm := .latching, bus := { running.bus with now := 1600 * 480 } }

/-- In Blanking, at 1680 ns. -/
def blanking : State :=
  { shifting with
    fsm := .blanking
    bus := { running.bus with
      oe := true, now := 1680 * 480, wave := ⟨1680 * 480, .oe, true⟩ :: running.bus.wave } }

/-- After a shutdown. -/
def stopped : State := { running with mode := .stopped, agent := .host }

/-- After an overrun in transfer 1 (P3, step 3). -/
def faulted : State :=
  { running with
    mode := .faulted, agent := .host, errCode := .timingViolationError, errInfo := 0x00010001
    lastResult := .aborted }

/-- The host is next. -/
def byHost (s : State) : State := { s with agent := .host }

/-- The producer is next. -/
def byProducer (s : State) : State := { s with agent := .producer }

/-- The adapter is next. -/
def byAdapter (s : State) : State := { s with agent := .adapter }

/-- The sequencer is next. -/
def bySequencer (s : State) : State := { s with agent := .sequencer }

/-- The result is a next state that passes a check. -/
def answers (r : Result) (check : State → Bool) : Bool :=
  match r with
  | .next t => check t
  | .fault _ => false
  | .refused _ => false

theorem answers_next (r : Result) (check : State → Bool) (h : answers r check = true) :
    ∃ t, r = .next t ∧ check t = true := by
  cases r with
  | next t => exact ⟨t, rfl, h⟩
  | fault f => exact absurd h (by simp [answers])
  | refused f => exact absurd h (by simp [answers])

/-- The answer of a command. -/
def answered (status : Status) (value : Word) (t : State) : Bool := t.reply == .response status value

/-! ## Decoding: one word of each row, written out from 30_encoding.md R80 to R84 -/

theorem test_decode_configuration :
    decode 0b00000001_00000010_0000000000000000_00000000000000000000000000011000#64
      = .ok (.loadcfg 2 24) ∧
    decode 0b00000010_00000000_0000000000000000_00000000000000000000000000000000#64 = .ok .validate ∧
    decode 0b00000011_00000010_0000000000000000_00000000000000000000000000000000#64 = .ok (.bind 2) ∧
    decode 0b00000100_00000000_0000000000000000_00000000000000000000000000011000#64
      = .ok (.configureDivider 24) ∧
    decode 0b00000101_00000000_0000000000000000_00000000000000000000000000000000#64 = .ok .init := by
  decide

theorem test_decode_lifecycle :
    decode 0b00000110_00000000_0000000000000000_00000000000000000000000000000000#64 = .ok .start ∧
    decode 0b00000111_00000000_0000000000000000_00000000000000000000000000000000#64 = .ok .shutdown ∧
    decode 0b00001000_00000000_0000000000000000_00000000000000000000000000000000#64 = .ok .reset ∧
    decode 0b00001001_01000000_0000000000000000_00000000000000000000000000000000#64
      = .ok (.statusRead 0x40) := by decide

theorem test_decode_scheduler :
    decode 0b00010000_00000000_0000000000000000_00000000000000000000000000000000#64 = .ok .tick ∧
    decode 0b00010001_00000000_0000000000000000_00000000000000000000000000000000#64 = .ok .select ∧
    decode 0b00010010_00000000_0000000000000000_00000000000000000000000000000000#64 = .ok .shiftDone ∧
    decode 0b00010011_00000000_0000000000000000_00000000000000000000000000000000#64 = .ok .latchDone ∧
    decode 0b00010100_00000000_0000000000000000_00000000000000000000000000000000#64
      = .ok .blankDone := by decide

theorem test_decode_sequencer :
    decode 0b00011000_00000001_0000000000000011_00000000000000000000000000000000#64
      = .ok (.emit 1 3) ∧
    decode 0b00011001_00000000_0000000000000000_00000000000000000000000000100000#64
      = .ok (.startPulseTrain 32) ∧
    decode 0b00011010_00000001_0000000000000000_00000000000000000000000000000000#64
      = .ok (.onCycleComplete 1) := by decide

theorem test_decode_framebuffer :
    decode 0b00100000_00000001_0000000000000011_00000000000000000000000000000000#64
      = .ok (.getActiveRowPlane 1 3) ∧
    decode 0b00100001_00000000_0000000000000000_00000000000000000000000000000000#64 = .ok .swapBuffers ∧
    decode 0b00100010_00000010_0000000000000010_0000000000000101_0000000000000010#64
      = .ok (.fbWrite 2 2 5 2) := by decide

/-- V11 and R89: reserved codes and unused fields, by name. -/
theorem test_decode_rejects :
    decode 0x0A00000000000000#64 = .error .reservedOpcode ∧
    decode 0x1500000000000000#64 = .error .reservedOpcode ∧
    decode 0x1B00000000000000#64 = .error .reservedOpcode ∧
    decode 0xFF00000000000000#64 = .error .reservedOpcode ∧
    decode 0x1000000000000001#64 = .error .unusedFieldNotZero ∧
    decode 0x1801000000000001#64 = .error .unusedFieldNotZero := by decide

theorem test_table_words :
    decodeTableWord 64 0x0302000000000000 = some (.bind 2) ∧ decodeTableWord 64 0 = none := by decide

/-! ## Reserved operands (30_encoding.md R90): each check refuses an ill-formed term -/

theorem test_ill_formed :
    Instr.wellFormed (.loadcfg 0x0A 0) = false ∧ Instr.wellFormed (.loadcfg 0x2A 0) = false ∧
    Instr.wellFormed (.loadcfg 0x40 0) = false ∧ Instr.wellFormed (.bind 26) = false ∧
    Instr.wellFormed (.statusRead 0x3F) = false ∧ Instr.wellFormed (.statusRead 0x2A) = false ∧
    Instr.wellFormed (.statusRead 0x4D) = false ∧ Instr.wellFormed (.onCycleComplete 0) = false ∧
    Instr.wellFormed (.onCycleComplete 2) = false ∧ Instr.wellFormed (.fbWrite 3 0 0 0) = false := by
  decide

theorem test_well_formed_bounds :
    Instr.wellFormed (.loadcfg 0x29 0) = true ∧ Instr.wellFormed (.bind 25) = true ∧
    Instr.wellFormed (.statusRead 0x4C) = true ∧ Instr.wellFormed (.onCycleComplete 3) = true ∧
    Instr.wellFormed (.fbWrite 2 0 0 0) = true := by decide

/-! ## Configuration -/

/-- P1, command 20. -/
theorem test_loadcfg_binds :
    answers (exec (.loadcfg 0x1A 0x8000000A) State.reset) (fun t =>
      answered .ok 0 t && t.cfg.bound 10 && t.cfg.line 10 == 10 && !t.cfg.bound 9) = true := by
  decide

theorem test_loadcfg_reserved :
    answers (exec (.loadcfg 0x0A 1) State.reset) (fun t =>
      t == { State.reset with reply := .response .refused 0 }) = true := by decide

/-- V2, with S1 and S2. -/
theorem test_validate_masks :
    (([{ exampleCfg with latchPulseWidthNs := 19 }, { exampleCfg with latchPulseWidthNs := 20 },
       { exampleCfg with latchPulseWidthNs := 150 }, { exampleCfg with latchPulseWidthNs := 151 },
       { exampleCfg with latchToClockDelayNs := 0 }, { exampleCfg with latchToClockDelayNs := 1 },
       { exampleCfg with clockDivider := 21 }, { exampleCfg with clockDivider := 18 },
       { exampleCfg with clockDivider := 19 }, { exampleCfg with clockDivider := 0 },
       { exampleCfg with clockDivider := 20 }, { exampleCfg with fixedOverheadNs := 0 },
       { exampleCfg with baseClockMhz := 0 }, ConfigRegs.reset] : List ConfigRegs).map validateMask)
      = [1, 0, 0, 1, 2, 0, 4, 8, 12, 8, 0, 0x10, 0x20, 0x3B] := by decide

theorem test_validate_answers :
    answers (exec .validate loaded) (answered .ok 0) = true ∧
    answers (exec .validate faulted) (answered .ok 0) = true ∧
    answers (exec .validate State.reset) (answered .configurationError 0x3B) = true := by decide

/-- V4. -/
theorem test_bind_answers :
    answers (exec (.bind 0) loaded) (answered .ok 0) = true ∧
    answers (exec (.bind 2) loaded) (answered .ok 2) = true ∧
    answers (exec (.bind 3) loaded) (answered .bindingError 0x0301) = true ∧
    answers (exec (.bind 11) loaded) (answered .bindingError 0x0B01) = true ∧
    answers (exec (.bind 26) loaded) (answered .refused 0) = true := by decide

/-- The example with other entries of the binding table and another clock mode. -/
def rebound (changes : List (Nat × Word)) (clockMode : Word) : ConfigRegs :=
  { exampleCfg with
    bind := changes.foldl (fun v c => v.setIfInBounds c.1 c.2) exampleCfg.bind
    clockMode := clockMode }

/-- V4. -/
theorem test_binding_masks :
    ([rebound [] 0, rebound [(3, 0x80000003)] 0, rebound [(2, 0)] 0, rebound [] 1,
      rebound [(2, 0), (3, 0x80000003)] 1, rebound [(5, 0x80000004)] 0, rebound [(10, 0)] 0,
      rebound [(10, 0x80000001)] 0].map bindingMask)
      = [0, 0x0002, 0x0205, 0x0309, 0, 0x0010, 0x0A01, 0x0020] := by decide

/-- 10_state.md R25 to R27, with P1's binding: `CLK` on line 2, on line 3 when the alternate clock is
active, and nothing on the line of the other clock role. -/
theorem test_clock_routing :
    running.lineLevel 2 = some false ∧ running.lineLevel 3 = none ∧ exampleCfg.lineOf .clk = some 2 ∧
    (rebound [(2, 0), (3, 0x80000003)] 1).lineOf .clk = some 3 ∧
    (rebound [(3, 0x80000007)] 0).outputOn 7 = some (.data 3) ∧ configured.lineLevel 2 = none := by decide

/-- V3. -/
theorem test_geometry_masks :
    (([{ exampleCfg with colorDepth := 0 }, { exampleCfg with colorDepth := 16 },
       { exampleCfg with colorDepth := 17 }, { exampleCfg with panelRows := 0 },
       { exampleCfg with panelRows := 3 }, { exampleCfg with panelRows := 2 },
       { exampleCfg with panelRows := 65536 }, { exampleCfg with panelRows := 65538 },
       { exampleCfg with rowPixels := 0 }, { exampleCfg with rowPixels := 48 },
       { exampleCfg with rowPixels := 65504 }, { exampleCfg with rowPixels := 65536 },
       { exampleCfg with onUnitNs := 0 }, { exampleCfg with clockMode := 2 }] : List ConfigRegs).map
        geometryMask)
      = [0x40, 0, 0x40, 0x80, 0x80, 0, 0, 0x80, 0x100, 0x100, 0, 0x100, 0x200, 0x400] := by decide

/-- V3, the last line. -/
theorem test_address_lines :
    [2, 4, 6, 8, 16, 32, 64, 65536].map (fun h => addressLinesFor (h / 2)) = [0, 1, 2, 2, 3, 4, 5, 15] := by
  decide

/-- V1: budgets in tu, with S3. -/
theorem test_budgets :
    ([(24, 480, 50), (20, 480, 50), (24, 600, 50), (26, 480, 1), (20, 1, 1)].map fun p =>
      ConfigRegs.budgetTu { exampleCfg with
        clockDivider := BitVec.ofNat 32 p.1
        baseClockMhz := BitVec.ofNat 32 p.2.1
        fixedOverheadNs := BitVec.ofNat 32 p.2.2 })
      = [792000, 664000, 798000, 832480, 640001] := by decide

theorem test_configure_divider :
    answers (exec (.configureDivider 24) (byAdapter loaded)) (fun t => t.divCfg == 24) = true ∧
    answers (exec (.configureDivider 24) loaded) (answered .refused 0) = true := by decide

/-- P1, command 23. -/
theorem test_init_configures :
    answers (exec .init loaded) (fun t => answered .ok 0 t && t.mode == .configured && t.divCfg == 24
      && t.fb.shape == exampleCfg.shape && t.bus.wave == []) = true := by decide

/-- P4, step 2. -/
theorem test_init_faults :
    answers (exec .init State.reset) (fun t => answered .configurationError 0x3FB t && t.mode == .faulted
      && t.errCode == .configurationError && t.errInfo == 0x3FB && !t.bus.pinsActive) = true := by
  decide

/-! ## Lifecycle -/

/-- P1, command 28. -/
theorem test_start_events :
    answers (exec .start configured) (fun t => answered .ok 0 t && t.mode == .running
      && t.bus == running.bus) = true := by decide

/-- V10. -/
theorem test_start_again :
    answers (exec .start stopped) (fun t => t.mode == .running && t.bus == stopped.bus) = true ∧
    answers (exec .start faulted) (answered .refused 0) = true := by decide

/-- P2, steps 6 and 10. -/
theorem test_shutdown :
    answers (exec .shutdown (byHost running)) (fun t => answered .ok 0 t && t.register 0x45 == some 0x0C
      && t.mode == .running) = true ∧
    answers (exec .shutdown stopped) (answered .refused 0) = true := by decide

/-- P3, step 9. -/
theorem test_reset_command :
    answers (exec .reset faulted) (fun t => answered .ok 0 t && t.register 0x40 == some 0
      && t.register 0x46 == some 0 && t.register 0x45 == some 0 && t.cfg == ConfigRegs.reset
      && t.fb == faulted.fb && t.bus.wave == faulted.bus.wave) = true ∧
    answers (exec .reset (byHost running)) (answered .refused 0) = true := by decide

/-- P3, steps 7 and 8; V11. -/
theorem test_status_read :
    answers (exec (.statusRead 0x46) faulted) (answered .ok 4) = true ∧
    answers (exec (.statusRead 0x47) faulted) (answered .ok 0x00010001) = true ∧
    answers (exec (.statusRead 0x40) configured) (answered .ok 1) = true ∧
    answers (exec (.statusRead 0x3F) configured) (answered .refused 0) = true := by decide

/-! ## Scheduler -/

/-- V9. -/
theorem test_tick_swaps :
    answers (exec .tick { running with swapPending := true }) (fun t =>
      t.activeBuf && !t.swapPending && t.fsm == .selectPlane) = true ∧
    answers (exec .tick { running with swapPending := true, pos := ⟨0, 0, 1⟩ }) (fun t =>
      !t.activeBuf && t.swapPending && t.curPlane == 1) = true := by decide

/-- P2, step 4: a gap of 200 ns. -/
theorem test_tick_gap :
    answers (exec .tick { running with env := { running.env with gap := 200 * 480 } }) (fun t =>
      t.bus.now == 96000) = true := by decide

/-- P1, cycle 3: the address changes with the output off. -/
theorem test_select_address :
    answers (exec .select { selecting with curRow := 1, pos := ⟨1, 0, 0⟩ }) (fun t =>
      t.fsm == .shifting && t.bus.addr == 1 && t.bus.wave.head? == some ⟨0, .addr 0, true⟩
      && t.bus.wave.length == 11) = true := by decide

/-- P2, step 3. -/
theorem test_select_skips :
    answers (exec .select { selecting with
        pos := ⟨0, 0, 1⟩, curPlane := 1, env := { selecting.env with ready := false } }) (fun t =>
      t.lastResult == .skipped && t.pos == ⟨0, 1, 1⟩ && t.fsm == .idle && t.mode == .running
      && t.errCode == .noError && t.bus == selecting.bus) = true := by decide

/-- V7. -/
theorem test_shift_done :
    answers (exec .shiftDone shifting) (fun t =>
      t.fsm == .latching && t.bus.now == 1600 * 480 && risingClocks t.bus.wave == 32
      && (t.bus.wave.filter fun e => e.line != .clk && e.time != 0)
          == [⟨300 * 480, .data 0, false⟩, ⟨250 * 480, .data 0, true⟩]) = true := by decide +kernel

/-- V8, W = 64 and stalls of 50 and 51 ns (P3, step 3). -/
theorem test_shift_overruns :
    answers (exec .shiftDone { shifting with
        cfg := { exampleCfg with rowPixels := 64 }
        rowbuf := { words := List.replicate 64 0, generation := 0 }
        env := { shifting.env with stall := [50 * 480, 51 * 480] } }) (fun t =>
      t.mode == .faulted && t.errCode == .timingViolationError && t.errInfo == 0x00010001
      && t.fsm == .idle && t.lastResult == .aborted && t.bus.now == 3300 * 480 && t.bus.out == 0
      && t.bus.wave.head? == some ⟨1650 * 480, .clk, false⟩) = true := by decide +kernel

/-- V7. -/
theorem test_latch_done :
    answers (exec .latchDone latching) (fun t =>
      t.fsm == .blanking && t.bus.wave.take 3
        == [⟨1680 * 480, .oe, true⟩, ⟨1680 * 480, .lat, false⟩, ⟨1630 * 480, .lat, true⟩]
      && t.bus.now == 1680 * 480) = true := by decide

/-- V7 and P2, step 9. -/
theorem test_blank_done :
    answers (exec .blankDone blanking) (fun t => t.fsm == .idle && t.lastResult == .complete
      && t.pos == ⟨0, 0, 1⟩ && t.mode == .running
      && t.bus.wave.head? == some ⟨2680 * 480, .oe, false⟩) = true ∧
    answers (exec .blankDone { blanking with shutdownReq := true }) (fun t => t.mode == .stopped
      && t.register 0x45 == some 0x08) = true := by decide

/-- V5: the walk of `succ` for N = 3, R = 3. -/
theorem test_schedule_walk :
    ((List.range 8).map fun k => (Pos.succ 3 3)^[k] Pos.origin)
      = [⟨0, 0, 0⟩, ⟨0, 0, 1⟩, ⟨0, 0, 2⟩, ⟨0, 1, 2⟩, ⟨0, 2, 1⟩, ⟨0, 2, 2⟩, ⟨0, 3, 2⟩, ⟨1, 0, 0⟩] ∧
    (Pos.succ 3 3)^[21] Pos.origin = Pos.origin := by decide

/-- V5, V6, S5. -/
theorem test_slots :
    (List.range 8).map (firstPlane 4) = [0, 3, 2, 3, 1, 3, 2, 3] ∧
    (List.range 4).map (fun p => (slots 4).count p) = [1, 2, 4, 8] ∧
    (Pos.succ 1 1) Pos.origin = Pos.origin := by decide

/-! ## Sequencer -/

/-- V7: a whole cycle of 2680 ns. -/
theorem test_emit_cycle :
    answers (exec (.emit 0 1) { (bySequencer selecting) with rowbuf := shifting.rowbuf }) (fun t =>
      t.bus.now == 2680 * 480 && t.lastResult == .complete && t.bus.addr == 1
      && risingClocks t.bus.wave == 32 && t.reply == .cycleResult .complete) = true := by decide +kernel

/-- 42_sequencer.md R153. -/
theorem test_emit_overlap :
    answers (exec (.emit 0 1) (bySequencer shifting)) (fun t =>
      t.errCode == .timingViolationError && t.errInfo == 2 && t.mode == .faulted
      && t.lastResult == .aborted) = true := by decide

/-- V7, V8: 32 pixels after a stall of 50 ns. -/
theorem test_pulse_train :
    answers (exec (.startPulseTrain 32)
        { (byAdapter shifting) with env := { shifting.env with stall := [50 * 480] } }) (fun t =>
      t.bus.now == 1650 * 480 && risingClocks t.bus.wave == 32 && !t.trainBusy) = true := by decide +kernel

/-- The worked example of 42_sequencer.md R148: the clock edges of 32 pixels at K = 24, M = 480. -/
theorem test_train_events :
    (trainEvents 0 (500 * 24) (fun _ => 0) (fun _ => 0) false 0 32).map (fun e => (e.time, e.value))
      = (List.range 32).flatMap fun x => [((50 * x + 25) * 480, true), ((50 * x + 50) * 480, false)] := by
  decide +kernel

theorem test_pulse_train_overlap :
    answers (exec (.startPulseTrain 32) { (byAdapter shifting) with trainBusy := true }) (fun t =>
      t.errInfo == 2 && t.mode == .faulted && !t.trainBusy) = true := by decide

theorem test_on_cycle_complete :
    answers (exec (.onCycleComplete 1) (byAdapter blanking)) (fun t => t.register 0x48 == some 1) = true ∧
    answers (exec (.onCycleComplete 2) (byAdapter blanking)) (answered .refused 0) = true := by
  decide

/-! ## Frame buffer -/

/-- The six channel values of column 5 of row address 0 in buffer 0, as P1 writes them. -/
def painted : FrameBuffer :=
  { configured.fb with
    cells := [(locationKey false 0 5 .red, 3), (locationKey false 0 5 .green, 0),
      (locationKey false 0 5 .blue, 0), (locationKey false 2 5 .red, 0),
      (locationKey false 2 5 .green, 0), (locationKey false 2 5 .blue, 2)] }

/-- P1, cycles 0 and 1: `DATA[0]` in plane 0, `DATA[0]` and `DATA[5]` in plane 1. -/
theorem test_get_active_row_plane :
    answers (exec (.getActiveRowPlane 0 0) { running with fb := painted }) (fun t =>
      match t.reply with | .rowPlane ws => ws[5]? == some 0b000001 | _ => false) = true ∧
    answers (exec (.getActiveRowPlane 1 0) { running with fb := painted }) (fun t =>
      match t.reply with | .rowPlane ws => ws[5]? == some 0b100001 | _ => false) = true := by
  decide

/-- V9. -/
theorem test_swap_buffers :
    answers (exec .swapBuffers (byProducer configured)) (fun t => answered .ok 0 t && t.swapPending) = true ∧
    answers (exec .swapBuffers configured) (answered .refused 0) = true ∧
    answers (exec .swapBuffers (byProducer loaded)) (answered .refused 0) = true := by decide

/-- V9: the inactive buffer takes the value. -/
theorem test_fb_write :
    answers (exec (.fbWrite 0 0 5 3) (byProducer configured)) (fun t => answered .ok 0 t
      && t.fb.read 2 true 0 5 .red == 3 && t.fb.cells.length == 1) = true := by decide

/-- V9: the refusals. -/
theorem test_fb_write_refused :
    answers (exec (.fbWrite 0 0 5 4) (byProducer configured)) (answered .refused 0) = true ∧
    answers (exec (.fbWrite 0 4 5 1) (byProducer configured)) (answered .refused 0) = true ∧
    answers (exec (.fbWrite 0 0 32 1) (byProducer configured)) (answered .refused 0) = true ∧
    answers (exec (.fbWrite 3 0 5 1) (byProducer configured)) (answered .refused 0) = true ∧
    answers (exec (.fbWrite 0 0 5 1) { (byProducer configured) with swapPending := true })
      (answered .refused 0) = true := by decide

/-! ## The step -/

/-- A placed word runs as the first operation after reset, and the port refuses an internal code
(V11). -/
theorem test_step_placed_word :
    answers (step (State.reset.withFetchWord 64 0x0102000000000018)) (fun t =>
      t.register 0x02 == some 24 && t.inbox == []) = true ∧
    answers (step { State.reset with inbox := [.op .host 0x1000000000000000] }) (answered .refused 0)
      = true ∧
    answers (step (State.reset.withFetchWord 64 0)) (answered .refused 0) = true := by decide

/-! ## Witnesses: a state and operands that meet the hypotheses of each statement that has any -/

theorem witness_WordsDecodeByMaskAndMatch :
    decode (encode (.bind 2)) = .ok (.bind 2) ∧
    encode (.bind 2) &&& tableMask (.bind 2) = tableMatch (.bind 2) := by decide

theorem witness_StepRunsThePresentedWord :
    (∃ s : State, s.inbox = [.op .host 0x0500000000000000#64] ∧
      decode 0x0500000000000000#64 = .ok .init) ∧
    ∃ s : State, s.inbox = [.op .host 0#64] ∧ decode 0#64 = .error .reservedOpcode :=
  ⟨⟨{ loaded with inbox := [.op .host 0x0500000000000000#64] }, rfl, by decide⟩,
    ⟨{ loaded with inbox := [.op .host 0#64] }, rfl, by decide⟩⟩

theorem witness_StepRunsTheSchedulerOrWaits :
    ([running, selecting, shifting, latching, blanking].all fun s =>
      s.inbox == [] && s.mode == .running) = true ∧
    [running, selecting, shifting, latching, blanking].map (·.fsm)
      = [.idle, .selectPlane, .shifting, .latching, .blanking] ∧
    ([State.reset, configured, stopped, faulted].all fun s => s.inbox == [] && s.mode != .running) = true ∧
    { running with inbox := [.environment running.env] }.inbox = [.environment running.env] := by decide

theorem witness_HardwareResetClearsRegistersAndFrameBuffer :
    { running with inbox := [.hardwareReset] }.inbox = [.hardwareReset] := rfl

theorem witness_RefusedOperationsChangeNothing :
    running.agent ∉ agentsOf .start ∧ loaded.mode ∉ modesOf .start ∧
    Instr.wellFormed (.bind 26) = false := by decide

theorem witness_LoadcfgStoresAnyValue :
    loaded.agent = .host ∧ loaded.mode = .reset ∧
    ([0x00, 0x09, 0x10, 0x29].all fun n => isConfigRegister n) = true ∧
    ([0x0A, 0x0F, 0x2A, 0x40, 0xFF].all fun n => !isConfigRegister n) = true := by decide

theorem witness_StatusReadAnswersTheRegister :
    stopped.agent = .host ∧ (byProducer stopped).agent = .producer ∧
    ([0x00, 0x09, 0x10, 0x29, 0x40, 0x4C].all fun n => isRegister n) = true ∧
    ([0x0A, 0x0F, 0x2A, 0x3F, 0x4D, 0xFF].all fun n => !isRegister n) = true := by decide

theorem witness_StartActivatesThePins :
    configured.agent = .host ∧ configured.mode = .configured ∧ configured.bus.pinsActive = false ∧
    stopped.agent = .host ∧ stopped.mode = .stopped ∧ stopped.bus.pinsActive = true := by decide

theorem witness_ShutdownOnlyLeavesARequest :
    (byHost running).agent = .host ∧ (byHost running).mode = .running ∧
    stopped.agent = .host ∧ stopped.mode ≠ .running := by decide

theorem witness_ResetCommandReinitialises :
    faulted.agent = .host ∧ faulted.mode ≠ .running ∧
    (byHost running).agent = .host ∧ (byHost running).mode = .running := by decide

theorem witness_ValidateReportsEveryFailingCondition :
    loaded.agent = .host ∧ State.reset.agent = .host := by decide

theorem witness_BudgetMustExceedTheShiftTime :
    1 ≤ exampleCfg.baseClockMhz.toNat ∧
    1 ≤ ({ exampleCfg with baseClockMhz := 1 } : ConfigRegs).baseClockMhz.toNat ∧
    State.reset.agent = .host ∧ State.reset.cfg.fixedOverheadNs.toNat = 0 := by decide

/-- The bound of a role number. -/
theorem witness_RegistersHoldTheirFields : 25 < 26 ∧ 0 < 26 := by decide

theorem witness_BindAnswersTheLineOrTheFaults :
    loaded.agent = .host ∧ 25 < (26#8).toNat ∧ (25#8).toNat ≤ 25 ∧ (0#8).toNat ≤ 25 := by decide

theorem witness_BindingMaskBits :
    (∀ r ∈ exampleCfg.requiredRoles, exampleCfg.bound r = true) ∧
    (10 ∈ (rebound [(10, 0)] 0).requiredRoles ∧ (rebound [(10, 0)] 0).bound 10 = false ∧
      ∀ q ∈ (rebound [(10, 0)] 0).requiredRoles, q < 10 → (rebound [(10, 0)] 0).bound q = true) := by
  decide

theorem witness_AddressLinesAreTheFewest :
    exampleCfg.panelRows.toNat ≤ 65536 ∧ 0 < exampleCfg.addressLines ∧
    ({ exampleCfg with panelRows := 65536 } : ConfigRegs).panelRows.toNat ≤ 65536 := by decide

theorem witness_ConfigureDividerProgramsDivCfg : (byAdapter loaded).agent = .adapter := rfl

/-- Loaded, with Clock unbound. -/
def unbound : State := { loaded with cfg := rebound [(2, 0)] 0 }

theorem witness_InitConfiguresOrFaults :
    (∀ s ∈ [State.reset, unbound, loaded], s.agent = .host ∧ s.mode = .reset ∧ s.errCode = .noError) ∧
    validateMask State.reset.cfg ||| geometryMask State.reset.cfg ≠ 0 ∧
    (validateMask unbound.cfg ||| geometryMask unbound.cfg = 0 ∧ bindingMask unbound.cfg ≠ 0) ∧
    (validateMask loaded.cfg ||| geometryMask loaded.cfg = 0 ∧ bindingMask loaded.cfg = 0) := by
  decide

theorem witness_SuccessfulInitEstablishesValidity :
    ∃ t, exec .init loaded = .next t ∧ loaded.agent = .host ∧ loaded.mode = .reset ∧
      t.mode = .configured := by
  obtain ⟨t, h, ht⟩ := answers_next (exec .init loaded) (fun t => t.mode == .configured)
    (by decide)
  exact ⟨t, h, rfl, rfl, by simpa using ht⟩

theorem witness_TickStopsOrStartsACycle :
    (∀ s ∈ [running, { running with shutdownReq := true }, { running with swapPending := true },
        { running with pos := ⟨0, 0, 1⟩, swapPending := true }],
      s.agent = .scheduler ∧ s.mode = .running ∧ s.fsm = .idle) ∧
    running.shutdownReq = false := by decide

theorem witness_SelectTakesTheRowAndSetsTheAddress :
    selecting.fb.shape = selecting.cfg.shape ∧
    selecting.agent = .scheduler ∧ selecting.mode = .running ∧ selecting.fsm = .selectPlane ∧
    selecting.env.ready = true ∧ selecting.bus.pinsActive = true ∧ selecting.bus.oe = false ∧
    31 < selecting.cfg.rowPixels.toNat := by decide

/-- In SelectPlane with no buffer ready. -/
def unready : State := { selecting with env := { selecting.env with ready := false } }

theorem witness_UnreadyBufferSkipsTheCycle :
    unready.agent = .scheduler ∧ unready.mode = .running ∧ unready.fsm = .selectPlane ∧
    unready.env.ready = false := by decide

/-- In Shifting with the longest stall the budget allows. -/
def delayed : State := { shifting with env := { shifting.env with stall := [50 * 480] } }

theorem witness_ShiftDoneCompletesWithinBudget :
    ∀ s ∈ [shifting, delayed], s.agent = .scheduler ∧ s.mode = .running ∧ s.fsm = .shifting ∧
      s.trainBusy = false ∧ s.bus.pinsActive = true ∧ s.bus.clk = false ∧
      ∀ k, k < (s.cfg.rowPixels.toNat + 31) / 32 → s.env.stallOf k ≤ s.cfg.slackTu := by decide

/-- In Shifting, two transfers, the second one delayed by one base tick more than the budget allows. -/
def overrunning : State :=
  { shifting with
    cfg := { exampleCfg with rowPixels := 64 }
    env := { shifting.env with stall := [50 * 480, 50 * 480 + 1] } }

theorem witness_OverrunIsFatal :
    overrunning.agent = .scheduler ∧ overrunning.mode = .running ∧ overrunning.fsm = .shifting ∧
    overrunning.trainBusy = false ∧ overrunning.errCode = .noError ∧
    overrunning.cfg.rowPixels.toNat % 32 = 0 ∧ overrunning.cfg.rowPixels.toNat ≤ 65504 ∧
    1 < overrunning.cfg.rowPixels.toNat / 32 ∧
    overrunning.cfg.slackTu < overrunning.env.stallOf 1 ∧
    ∀ j, j < 1 → overrunning.env.stallOf j ≤ overrunning.cfg.slackTu := by decide

theorem witness_LatchPulseIsExact :
    latching.agent = .scheduler ∧ latching.mode = .running ∧ latching.fsm = .latching ∧
    latching.bus.pinsActive = true ∧ latching.bus.oe = false ∧ latching.bus.lat = false ∧
    1 ≤ latching.cfg.baseClockMhz.toNat := by decide

theorem witness_BlankDoneCompletesTheCycle :
    blanking.agent = .scheduler ∧ blanking.mode = .running ∧ blanking.fsm = .blanking ∧
    blanking.bus.pinsActive = true ∧ blanking.bus.oe = true ∧
    1 ≤ blanking.cfg.baseClockMhz.toNat := by decide

/-- A step of the Scheduler that passes a check. -/
def steps (s : State) (check : State → Bool) : Bool := s.inbox == [] && answers (step s) check

theorem steps_next (s : State) (check : State → Bool) (h : steps s check = true) :
    s.inbox = [] ∧ ∃ t, step s = .next t ∧ check t = true := by
  unfold steps at h
  simp only [Bool.and_eq_true, beq_iff_eq] at h
  exact ⟨h.1, answers_next _ _ h.2⟩

/-- With an empty inbox no reset is next. -/
theorem no_reset (s : State) (h : s.inbox = []) : ¬ s.nextIsReset := by simp [State.nextIsReset, h]

/-- Each transition of the statement is taken by some step. -/
theorem witness_FsmChangesOnlyByItsTransitions :
    steps running (fun t => t.fsm == .selectPlane) = true ∧
    steps selecting (fun t => t.fsm == .shifting) = true ∧
    steps unready (fun t => t.fsm == .idle) = true ∧
    steps shifting (fun t => t.fsm == .latching) = true ∧
    steps latching (fun t => t.fsm == .blanking) = true ∧
    steps blanking (fun t => t.fsm == .idle) = true ∧
    steps overrunning (fun t => t.fsm == .idle && t.mode == .faulted) = true ∧
    answers (step { blanking with inbox := [.hardwareReset] }) (fun t => t.fsm == .idle) = true := by
  decide

theorem witness_SwapOnlyAtAFrameBoundary :
    steps { running with swapPending := true } (fun t => t.activeBuf != running.activeBuf) = true ∧
    answers (step { running with activeBuf := true, inbox := [.hardwareReset] })
      (fun t => t.activeBuf != true) = true := by decide

theorem witness_PlanesAreDueFromTheFirstOn :
    (1 ≤ 1 ∧ 0 < 1 ∧ 0 < 2 ^ (1 - 1)) ∧ (1 ≤ 16 ∧ 15 < 16 ∧ 2 ^ 15 - 1 < 2 ^ (16 - 1)) := by decide

theorem witness_PlaneIsVisitedTwoToItsIndexTimes : (1 ≤ 1 ∧ 0 < 1) ∧ (1 ≤ 16 ∧ 15 < 16) := by decide

theorem pos_valid (p : Pos) (h : p.row.toNat < 2 ∧ p.tick.toNat < ticksPerRow 2 ∧ p.plane.toNat < 2 ∧
    planeDue 2 p.plane.toNat p.tick.toNat = true) : p.Valid 2 2 := ⟨h.1, h.2.1, h.2.2.1, h.2.2.2⟩

theorem witness_SuccessorKeepsPositionsValid :
    2 ≤ 65536 ∧ 2 ≤ 16 ∧ (⟨1, 1, 1⟩ : Pos).Valid 2 2 ∧ Pos.origin.Valid 2 2 :=
  ⟨by decide, by decide, pos_valid _ (by decide), pos_valid _ (by decide)⟩

theorem witness_ScheduleIsRowMajorAndReturns :
    (1 ≤ 1 ∧ 1 ≤ 32768 ∧ 1 ≤ 1 ∧ 1 ≤ 16) ∧ (1 ≤ 32768 ∧ 32768 ≤ 32768 ∧ 1 ≤ 16 ∧ 16 ≤ 16) := by decide

/-- `EMIT` asked for in SelectPlane. -/
def emitting : State := { bySequencer selecting with rowbuf := shifting.rowbuf, env := delayed.env }

theorem witness_EmitRunsOneWholeCycle :
    emitting.agent = .sequencer ∧ emitting.fsm = .selectPlane ∧ emitting.trainBusy = false ∧
    (1#16).toNat < emitting.cfg.panelRows.toNat / 2 ∧ (1#8).toNat < emitting.cfg.colorDepth.toNat ∧
    emitting.bus.clk = false ∧ emitting.bus.pinsActive = true ∧
    ∀ k, k < (emitting.cfg.rowPixels.toNat + 31) / 32 → emitting.env.stallOf k ≤ emitting.cfg.slackTu := by
  decide

theorem witness_OverlapIsATimingViolation :
    ((bySequencer shifting).agent = .sequencer ∧ (bySequencer shifting).fsm ≠ .selectPlane) ∧
    { byAdapter shifting with trainBusy := true }.agent = .adapter ∧
    { byAdapter shifting with trainBusy := true }.trainBusy = true ∧
    shifting.errCode = .noError ∧ faulted.errCode ≠ .noError := by decide

theorem witness_PulseTrainClocksExactlyItsPixels :
    (byAdapter delayed).agent = .adapter ∧ (byAdapter delayed).trainBusy = false ∧
    (byAdapter delayed).bus.clk = false ∧ (byAdapter delayed).bus.pinsActive = true ∧
    ∀ k, k < ((33#32).toNat + 31) / 32 →
      (byAdapter delayed).env.stallOf k ≤ (byAdapter delayed).cfg.slackTu := by decide

theorem witness_StandAloneOverrunIsFatal :
    (∀ s ∈ [byAdapter overrunning, { bySequencer overrunning with fsm := .selectPlane }],
      s.trainBusy = false ∧ s.errCode = .noError ∧ s.cfg.slackTu < s.env.stallOf 1 ∧
      ∀ j, j < 1 → s.env.stallOf j ≤ s.cfg.slackTu) ∧
    ((byAdapter overrunning).agent = .adapter ∧ 1 < ((33#32).toNat + 31) / 32) ∧
    (bySequencer overrunning).agent = .sequencer ∧ (1#16).toNat < overrunning.cfg.panelRows.toNat / 2 ∧
    (1#8).toNat < overrunning.cfg.colorDepth.toNat ∧
    1 < (overrunning.cfg.rowPixels.toNat + 31) / 32 := by decide

theorem witness_OperationsOutOfPlaceAreRefused :
    selecting.fsm ≠ .idle ∧ running.fsm ≠ .selectPlane ∧ running.fsm ≠ .shifting ∧
    running.fsm ≠ .latching ∧ running.fsm ≠ .blanking ∧
    (selecting.fsm = .selectPlane ∧ selecting.trainBusy = false) ∧
    selecting.cfg.panelRows.toNat / 2 ≤ (2#16).toNat ∧
    ¬ selecting.cfg.panelRows.toNat / 2 ≤ (1#16).toNat ∧
    selecting.cfg.colorDepth.toNat ≤ (2#8).toNat := by decide

theorem witness_OnCycleCompleteRecordsTheResult :
    (byAdapter blanking).agent = .adapter ∧ (0#8 ≠ 1 ∧ 0#8 ≠ 3) ∧ (2#8 ≠ 1 ∧ 2#8 ≠ 3) := by decide

theorem witness_GetActiveRowPlaneReadsTheActiveBuffer :
    running.fb.shape = running.cfg.shape ∧
    running.agent = .scheduler ∧
    ((1#16).toNat < running.cfg.panelRows.toNat / 2 ∧ (1#8).toNat < running.cfg.colorDepth.toNat) ∧
    ¬ ((2#16).toNat < running.cfg.panelRows.toNat / 2 ∧ (1#8).toNat < running.cfg.colorDepth.toNat) ∧
    ¬ ((1#16).toNat < running.cfg.panelRows.toNat / 2 ∧ (2#8).toNat < running.cfg.colorDepth.toNat) := by
  decide

theorem witness_SwapBuffersOnlyLeavesARequest :
    (∀ s ∈ [byProducer configured, byProducer running, byProducer stopped],
      s.agent = .producer ∧ (s.mode = .configured ∨ s.mode = .running ∨ s.mode = .stopped)) ∧
    ∀ s ∈ [byProducer loaded, byProducer faulted],
      s.agent = .producer ∧ (s.mode = .reset ∨ s.mode = .faulted) := by decide

theorem witness_FbWriteStoresOneInactiveValue :
    (byProducer configured).agent = .producer ∧ (byProducer configured).mode = .configured ∧
    (2 < (3#8).toNat ∧ configured.cfg.panelRows.toNat ≤ (4#16).toNat ∧
      configured.cfg.rowPixels.toNat ≤ (32#16).toNat ∧
      2 ^ configured.cfg.colorDepth.toNat ≤ (4#16).toNat ∧
      { configured with swapPending := true }.swapPending = true) ∧
    ((2#8).toNat = Channel.blue.number ∧ (3#16).toNat < configured.cfg.panelRows.toNat ∧
      (31#16).toNat < configured.cfg.rowPixels.toNat ∧
      (3#16).toNat < 2 ^ configured.cfg.colorDepth.toNat ∧ configured.swapPending = false) ∧
    ¬ (false = (!configured.activeBuf) ∧ 3 = 3 ∧ 31 = 31 ∧ Channel.red = Channel.blue) := by decide

/-- The producer's `FB_WRITE` is next. -/
def writing : State := { running with inbox := [.op .producer 0x2202000200050002#64] }

theorem writing_next : ∃ t, step writing = .next t ∧ t.fb.cells ≠ [] := by
  obtain ⟨t, h, ht⟩ := answers_next (step writing) (fun t => t.fb.cells.length == 1) (by decide)
  exact ⟨t, h, fun hc => by simp [hc] at ht⟩

theorem writing_no_reset : ¬ writing.nextIsReset := by
  rintro (h | ⟨w, h, -⟩)
  · exact absurd h (by decide)
  · have h := congrArg (fun r : Option Request => match r with | some (.op .host _) => true | _ => false) h
    exact absurd h (by simp [writing])

theorem witness_ActiveBufferIsNeverWritten :
    ∃ t, step writing = .next t ∧ writing.mode ≠ .reset ∧ ¬ writing.nextIsReset ∧ t.fb.cells ≠ [] :=
  let ⟨t, h, hc⟩ := writing_next
  ⟨t, h, by decide, writing_no_reset, hc⟩

theorem witness_EveryStepKeepsTheMemoryCanonical :
    ∃ t, step writing = .next t ∧ writing.fb.wf ∧ t.fb.cells ≠ [] :=
  let ⟨t, h, hc⟩ := writing_next
  ⟨t, h, by decide, hc⟩

theorem witness_ConfigurationIsFrozen :
    ∃ t, step running = .next t ∧ running.mode ≠ .reset ∧ ¬ running.nextIsReset :=
  let ⟨h, t, ht, _⟩ := steps_next running (fun _ => true) (by decide)
  ⟨t, ht, by decide, no_reset _ h⟩

theorem witness_FirstErrorStays :
    ∃ t, step faulted = .next t ∧ faulted.errCode ≠ .noError ∧ ¬ faulted.nextIsReset :=
  ⟨faulted, rfl, by decide, no_reset _ rfl⟩

/-- A host command is next. -/
def commanded (s : State) (w : CommandWord) : State := { s with inbox := [.op .host w] }

/-- Each transition of the statement is taken by some step of a run. -/
theorem witness_ModeChangesOnlyByItsTransitions :
    ((commanded loaded 0x0500000000000000#64).inbox.head?.all (·.isRunStep)) = true ∧
    answers (step (commanded loaded 0x0500000000000000#64)) (fun t => t.mode == .configured) = true ∧
    answers (step (commanded unbound 0x0500000000000000#64)) (fun t => t.mode == .faulted) = true ∧
    answers (step (commanded configured 0x0600000000000000#64)) (fun t => t.mode == .running) = true ∧
    steps { running with shutdownReq := true } (fun t => t.mode == .stopped) = true ∧
    steps { blanking with shutdownReq := true } (fun t => t.mode == .stopped) = true ∧
    steps overrunning (fun t => t.mode == .faulted) = true ∧
    answers (step (commanded stopped 0x0600000000000000#64)) (fun t => t.mode == .running) = true ∧
    answers (step (commanded faulted 0x0800000000000000#64)) (fun t => t.mode == .reset) = true := by
  decide

theorem witness_OnlyStartActivatesPins :
    configured.bus.pinsActive = false ∧
    answers (step configured) (fun t => !t.bus.pinsActive) = true ∧
    answers (step (commanded configured 0x0600000000000000#64)) (fun t => t.bus.pinsActive) = true := by
  decide

theorem witness_TraceOnlyGrows :
    ∃ t, step latching = .next t ∧ t.bus.wave.length = latching.bus.wave.length + 3 :=
  let ⟨_, t, ht, hc⟩ := steps_next latching
    (fun t => t.bus.wave.length == latching.bus.wave.length + 3) (by decide)
  ⟨t, ht, by simpa using hc⟩

theorem witness_CommandsTakeNoTime :
    (∃ t, configured.agent = .host ∧ exec .start configured = .next t) ∧
    ∃ t, (byProducer running).agent = .producer ∧ exec .swapBuffers (byProducer running) = .next t ∧
      Instr.swapBuffers ≠ .start := by
  obtain ⟨t, h, -⟩ := answers_next (exec .start configured) (fun _ => true) (by decide)
  obtain ⟨u, k, -⟩ := answers_next (exec .swapBuffers (byProducer running)) (fun _ => true)
    (by decide)
  exact ⟨⟨t, rfl, h⟩, ⟨u, rfl, k, by decide⟩⟩

/-- The example configuration is a valid one (40_configuration.md R111). -/
theorem exampleCfg_valid : exampleCfg.Valid where
  latchWidth := by decide
  latchDelay := by decide
  divider := by decide
  baseClock := by decide
  overhead := by decide
  depth := by decide
  rows := by decide
  columns := by decide
  onTime := by decide
  clockMode := by decide
  clock := by decide
  bound := by decide
  distinct := by decide

theorem running_wave_safe : WaveSafe running.bus.wave := by
  simp [running, WaveSafe, Event.allowed, levelsAfter, Levels.apply]

theorem running_wave_ordered : WaveOrdered 0 running.bus.wave := by
  simp [running, WaveOrdered]

/-- A state of a run in `Idle`. -/
theorem running_inv : running.Inv where
  requests := by simp [running, configured, loaded, State.reset]
  memory := by decide
  idle := by decide
  quiet := by decide
  shown := by decide
  error := by decide
  pins := by decide
  released := by decide
  initialised := fun _ => ⟨exampleCfg_valid, rfl, rfl⟩
  position := fun _ => ⟨by decide, by decide, by decide, by decide⟩
  origin := by decide
  current := by decide
  rowWords := by decide
  addrHigh := by simp [running, Bus.reset]
  shutdown := by decide
  wave := running_wave_safe
  ordered := running_wave_ordered
  traced := by decide
  grid := by decide

/-- In Blanking, with a shutdown requested. -/
def stopping : State := { blanking with shutdownReq := true }

/-- A state of a run at the end of which the loop stops. -/
theorem stopping_inv : stopping.Inv where
  requests := by simp [stopping, blanking, shifting, running, configured, loaded, State.reset]
  memory := by decide
  idle := by decide
  quiet := by decide
  shown := by decide
  error := by decide
  pins := by decide
  released := by decide
  initialised := fun _ => ⟨exampleCfg_valid, rfl, rfl⟩
  position := fun _ => ⟨by decide, by decide, by decide, by decide⟩
  origin := by decide
  current := by decide
  rowWords := by decide
  addrHigh := by simp [stopping, blanking, shifting, running, Bus.reset]
  shutdown := by decide
  wave := by
    refine ⟨?_, running_wave_safe⟩
    simp [running, Event.allowed, levelsAfter, Levels.apply]
  ordered := ⟨by decide, by simp [running, WaveOrdered]⟩
  traced := by decide
  grid := by decide

theorem witness_EveryStepKeepsTheInvariant : running.Inv ∧ ∃ t, step running = .next t ∧ t.fsm ≠ .idle :=
  let ⟨_, t, ht, hc⟩ := steps_next running (fun t => t.fsm == .selectPlane) (by decide)
  ⟨running_inv, t, ht, by simp at hc; simp [hc]⟩

theorem witness_StoppingReachesTheGoodEnd :
    stopping.Inv ∧ stopping.mode = .running ∧ ∃ t, step stopping = .next t ∧ t.mode = .stopped :=
  let ⟨_, t, ht, hc⟩ := steps_next stopping (fun t => t.mode == .stopped) (by decide)
  ⟨stopping_inv, rfl, t, ht, by simpa using hc⟩

theorem witness_FiveStepsAreOneCycle :
    running.Inv ∧ running.mode = .running ∧ running.fsm = .idle ∧ running.inbox = [] ∧
    running.shutdownReq = false ∧ running.env.ready = true ∧
    ∀ k, k < running.cfg.rowPixels.toNat / 32 →
      running.env.stallOf k ≤ running.cfg.fixedOverheadNs.toNat * running.cfg.baseClockMhz.toNat :=
  ⟨running_inv, rfl, rfl, rfl, rfl, rfl, by decide⟩

/-- An observer with a dark panel and something in its shift register. -/
def darkPanel : Panel where
  shift := List.replicate 32 0b111111
  out := List.replicate 32 0
  levels := { oe := false, lat := false, clk := false }
  data := 0
  addr := 0

/-- The hypotheses are met; the observer shows column 5 of V7 at position 26 and lights it on row pair 0
only. -/
theorem witness_PanelShowsTheRowBuffer :
    (shifting.agent = .scheduler ∧ shifting.mode = .running ∧ shifting.fsm = .shifting ∧
      shifting.trainBusy = false ∧ shifting.bus.pinsActive = true ∧ shifting.bus.oe = false ∧
      shifting.bus.lat = false ∧ shifting.bus.clk = false ∧
      shifting.rowbuf.words.length = shifting.cfg.rowPixels.toNat ∧
      darkPanel.shift.length = shifting.cfg.rowPixels.toNat ∧
      darkPanel.levels = { oe := false, lat := false, clk := false } ∧
      darkPanel.data = shifting.bus.data ∧ darkPanel.addr = shifting.bus.addr) ∧
    answers (exec .shiftDone shifting) (fun t => t.fsm == .latching && answers (exec .latchDone t)
      fun u =>
        let p := darkPanel.observe 32 (u.bus.wave.take (u.bus.wave.length - 10))
        p.out == List.replicate 26 0 ++ [1] ++ List.replicate 5 0 && p.lit ⟨0, 26, 0⟩ && !p.lit ⟨0, 26, 1⟩
          && !p.lit ⟨1, 26, 0⟩ && !p.lit ⟨0, 5, 0⟩) = true := by decide +kernel

/-- The hypotheses of its second part, which starts a whole cycle. -/
theorem witness_PanelShowsTheRowBuffer_cycle :
    running.Inv ∧ running.mode = .running ∧ running.fsm = .idle ∧ running.inbox = [] ∧
    running.shutdownReq = false ∧ running.env.ready = true ∧
    (∀ k, k < running.cfg.rowPixels.toNat / 32 →
      running.env.stallOf k ≤ running.cfg.fixedOverheadNs.toNat * running.cfg.baseClockMhz.toNat) ∧
    darkPanel.shift.length = running.cfg.rowPixels.toNat ∧
    darkPanel.levels = { oe := false, lat := false, clk := false } ∧ darkPanel.data = running.bus.data ∧
    darkPanel.addr = running.bus.addr :=
  ⟨running_inv, rfl, rfl, rfl, rfl, rfl, by decide, rfl, rfl, rfl, rfl⟩

/-- A valid configuration; an output in use at each end of its range, one not in use, and a line no role
has. -/
theorem witness_OutputsAppearOnTheirRolesLines :
    running.cfg.Valid ∧ (0 : Fin 16).val < running.cfg.addressLines ∧
    ¬ (1 : Fin 16).val < running.cfg.addressLines ∧
    running.cfg.lineOf (.addr 0) = some 10 ∧ running.cfg.lineOf (.data 5) = some 9 ∧
    ∀ r ∈ running.cfg.requiredRoles, running.cfg.line r ≠ 3 :=
  ⟨exampleCfg_valid, by decide, by decide, by decide, by decide, by decide⟩

/-- With either clock mode one of the two clock roles is active and the other is not. -/
theorem witness_OutputsAppearOnTheirRolesLines_clock :
    exampleCfg.Valid ∧ 3 ≠ exampleCfg.activeClockRole ∧ 2 ≠ (rebound [] 1).activeClockRole :=
  ⟨exampleCfg_valid, by decide, by decide⟩

end Sys2Proof.Tests
end

section
/-! PROOFS of the scope family (00_scope.md): the number of address lines (R6), and what the reference
observer (R12) makes of a cycle. -/

namespace Sys2Proof.Machine

/-! ## The number of address lines (00_scope.md R6) -/

/-- Counting the exponents that fall short of `r` gives the logarithm of `r`, rounded up, as far as
there are lines. -/
theorem addressLinesFor_eq_clog (r : Nat) : addressLinesFor r = min 16 (Nat.clog 2 r) := by
  have hpred : (fun a => decide (2 ^ a < r)) = fun a => decide (a < Nat.clog 2 r) := by
    funext a
    rw [decide_eq_decide, Nat.lt_clog_iff_pow_lt Nat.one_lt_two]
  rw [addressLinesFor, hpred, List.countP_eq_length_filter, ← List.Ico.zero_bot, List.Ico.filter_lt,
    List.Ico.length, Nat.sub_zero]

theorem ConfigRegs.addressLines_eq_clog (c : ConfigRegs) (h : c.panelRows.toNat ≤ 65536) :
    c.addressLines = Nat.clog 2 (c.panelRows.toNat / 2) := by
  have hle : Nat.clog 2 (c.panelRows.toNat / 2) ≤ 16 := Nat.clog_le_of_le_pow (by omega)
  rw [ConfigRegs.addressLines, ConfigRegs.rowAddresses, addressLinesFor_eq_clog, Nat.min_eq_right hle]

/-- Settles O23: the number of lines is the rounded-up logarithm of `R`, and an exponent is below that
exactly when its power is below `R`. -/
theorem addressLinesAreTheFewest : Obligations.AddressLinesAreTheFewest := by
  intro c h
  rw [c.addressLines_eq_clog h]
  exact ⟨Nat.le_pow_clog Nat.one_lt_two _, fun _ ha => Nat.pow_lt_of_lt_clog ha⟩

/-! ## The Scheduler's own steps in `Running` -/

/-- `LATCH_DONE` in its place (41_scheduler.md R132). -/
theorem exec_latchDone (s : State) (ha : s.agent = .scheduler) (hm : s.mode = .running)
    (hf : s.fsm = .latching) : exec .latchDone s = .next (State.quiet { s with
      bus := s.bus.latchAndShow s.cfg.latchDelayTu s.cfg.latchPulseTu
      fsm := .blanking }) :=
  State.stepGate_open s .latching _ ha hm hf

section
variable {s : State} (hi : s.inbox = []) (hm : s.mode = .running)
include hi hm

/-- With nothing requested the Scheduler's step passes its gate (60_exceptions.md R201). -/
theorem step_scheduler_open (f : FsmState) (go : State) (hf : s.fsm = f)
    (he : exec f.operation { s with agent := .scheduler } =
      State.stepGate { s with agent := .scheduler } f go) : step s = .next go := by
  rw [step_scheduler s f hi hm hf, he]
  exact State.stepGate_open _ _ _ rfl hm hf

/-- `TICK` with no shutdown request swaps at a frame boundary and starts a cycle (41_scheduler.md R127,
R128). -/
theorem step_tick (hf : s.fsm = .idle) (hr : s.shutdownReq = false) : step s = .next { s with
    agent := .scheduler
    reply := .silent
    bus := s.bus.advance s.env.gap
    activeBuf := s.applySwapIfBoundary.activeBuf
    swapPending := s.applySwapIfBoundary.swapPending
    curRow := s.pos.row
    curPlane := s.pos.plane
    fsm := .selectPlane } := by
  refine (step_scheduler_open hi hm .idle _ hf rfl).trans ?_
  simp only [hr, State.applySwapIfBoundary, Bool.false_eq_true, if_false]
  split <;> rfl

/-- `SELECT` with a ready buffer takes the row and sets the address (41_scheduler.md R129). -/
theorem step_select (hf : s.fsm = .selectPlane) (hr : s.env.ready = true) :
    step s = .next (State.quiet { s with
      agent := .scheduler
      rowbuf := { s.rowbuf with words := s.fb.rowPlane s.cfg s.activeBuf s.curRow.toNat s.curPlane.toNat }
      bus := s.bus.blankThenAddress s.cfg.addressLines s.curRow
      fsm := .shifting }) :=
  (step_scheduler_open hi hm .selectPlane _ hf rfl).trans (by simp [hr])

/-- `SHIFT_DONE` with a train that completes (41_scheduler.md R130). -/
theorem step_shiftDone (hf : s.fsm = .shifting) (hb : s.trainBusy = false) {c : Bus}
    (hc : s.bus.pulseTrain s.trainTiming s.rowbuf.word s.env.stallOf s.cfg.rowPixels.toNat = .complete c) :
    step s = .next (State.quiet { s with agent := .scheduler, bus := c, fsm := .latching }) :=
  (step_scheduler_open hi hm .shifting _ hf rfl).trans
    (congrArg _ (State.pulseTrain_complete { s with agent := .scheduler } _ _ _ c hb hc))

/-- `LATCH_DONE` latches and shows (41_scheduler.md R132). -/
theorem step_latchDone (hf : s.fsm = .latching) : step s = .next (State.quiet { s with
    agent := .scheduler
    bus := s.bus.latchAndShow s.cfg.latchDelayTu s.cfg.latchPulseTu
    fsm := .blanking }) :=
  (step_scheduler s .latching hi hm hf).trans (exec_latchDone _ rfl hm hf)

end

/-- A train within the slack completes, whatever it clocks (42_sequencer.md R146). -/
theorem Bus.pulseTrain_completes (b : Bus) (t : TrainTiming) (word : Nat → BitVec 6) (stall : Nat → Nat)
    (n : Nat) (hs : ∀ k, k < (n + 31) / 32 → stall k ≤ t.slack) :
    ∃ c, b.pulseTrain t word stall n = .complete c :=
  (Bus.transfers_complete_iff t word stall n _ 0 b).2 (by simpa using hs)

/-- A run, extended by a step before it. -/
theorem core_run_of_step {n : Nat} {s t : State} {r : Result} (h : step s = .next t)
    (hr : Sys2Proof.core.run n t = r) : Sys2Proof.core.run (n + 1) s = r :=
  (core_run_succ n s t h).trans hr

/-- Nothing keeps the next cycle of a state in `Idle` from reaching `Blanking`: nothing is requested, the
buffer is ready, and every stall is within the slack (41_scheduler.md R128 to R132). -/
structure State.CycleReady (s : State) : Prop where
  mode : s.mode = .running
  fsm : s.fsm = .idle
  inbox : s.inbox = []
  shutdown : s.shutdownReq = false
  ready : s.env.ready = true
  trainBusy : s.trainBusy = false
  stalls : ∀ k, k < (s.cfg.rowPixels.toNat + 31) / 32 → s.env.stallOf k ≤ s.cfg.slackTu

/-- In a state of a run the stalls may be given transfer by transfer, in tu (40_configuration.md R111). -/
theorem State.Inv.cycleReady {s : State} (h : s.Inv) (hm : s.mode = .running) (hf : s.fsm = .idle)
    (hi : s.inbox = []) (hr : s.shutdownReq = false) (he : s.env.ready = true)
    (hs : ∀ k, k < s.cfg.rowPixels.toNat / 32 →
      s.env.stallOf k ≤ s.cfg.fixedOverheadNs.toNat * s.cfg.baseClockMhz.toNat) : s.CycleReady := by
  obtain ⟨hv, -, -⟩ := h.initialised (by rw [hm]; rfl)
  refine ⟨hm, hf, hi, hr, he, h.quiet.2.2, fun k hk => ?_⟩
  rw [ConfigRegs.slackTu, ConfigRegs.durationTu_of_pos _ _ hv.baseClock]
  have hcol := hv.columns.1
  exact hs k (by omega)

/-- The bus after the gap of the next tick and the address of the next cycle (42_sequencer.md R141). -/
def State.addressedBus (s : State) : Bus :=
  (s.bus.advance s.env.gap).blankThenAddress s.cfg.addressLines s.pos.row

/-- The row the next cycle shows: that of `POS`, from the buffer active after a due swap (41_scheduler.md
R127, R129). -/
def State.nextRow (s : State) : RowBuf := { s.rowbuf with
  words := s.fb.rowPlane s.cfg s.applySwapIfBoundary.activeBuf s.pos.row.toNat s.pos.plane.toNat }

/-- `Blanking` of the next cycle, whose train leaves the bus `c`. -/
def State.showing (s : State) (c : Bus) : State := { s with
  agent := .scheduler
  reply := .silent
  fsm := .blanking
  curRow := s.pos.row
  curPlane := s.pos.plane
  activeBuf := s.applySwapIfBoundary.activeBuf
  swapPending := s.applySwapIfBoundary.swapPending
  rowbuf := s.nextRow
  bus := c.latchAndShow s.cfg.latchDelayTu s.cfg.latchPulseTu }

/-- Four steps take a cycle from `Idle` to `Blanking`, through its address, its train and its latch
(42_sequencer.md R141 to R151). -/
theorem State.CycleReady.run_to_blanking {s : State} (h : s.CycleReady) :
    ∃ c, s.addressedBus.pulseTrain s.trainTiming s.nextRow.word s.env.stallOf s.cfg.rowPixels.toNat
        = .complete c ∧ Sys2Proof.core.run 4 s = .next (s.showing c) := by
  obtain ⟨hm, hf, hi, hr, he, hb, hs⟩ := h
  obtain ⟨c, hc⟩ := s.addressedBus.pulseTrain_completes s.trainTiming s.nextRow.word s.env.stallOf
    s.cfg.rowPixels.toNat hs
  refine ⟨c, hc, ?_⟩
  refine core_run_of_step (step_tick hi hm hf hr) <| core_run_of_step (step_select ?_ ?_ rfl ?_) <|
    core_run_of_step (step_shiftDone ?_ ?_ rfl ?_ hc) <| core_run_of_step (step_latchDone ?_ ?_ rfl) rfl
  all_goals assumption

/-! ## What the observer sees of a cycle (00_scope.md R12) -/

namespace Bus.Observed

variable {width : Nat} {p₀ : Panel} {base : List Event} {b c : Bus} {shift out : List (BitVec 6)}

/-- A completed train of a whole row fills the shift register with the row, whatever it held, column 0
last; the latch copies it (42_sequencer.md R144 to R151). -/
theorem trainThenShow (h : Observed width p₀ base b shift out) (hs : shift.length = width)
    (ho : b.oe = false) (hl : b.lat = false) (hc : b.clk = false) {r : RowBuf}
    (hr : r.words.length = width) {t : TrainTiming} {stall : Nat → Nat}
    (hp : b.pulseTrain t r.word stall width = .complete c) (delay pulse : Nat) :
    Observed width p₀ base (c.latchAndShow delay pulse) r.words.reverse r.words.reverse := by
  obtain ⟨-, hoe, hlat, -⟩ := transfers_complete t r.word stall width _ 0 b c (by omega) hp
  have hcols : (columnsFrom width ((width + 31) / 32) 0).map r.word = r.words := by
    rw [columnsFrom_eq _ _ _ (by omega), Nat.mul_zero, Nat.sub_zero, ← List.range_eq_range', ← hr]
    exact List.ext_getElem (by simp) fun i _ hi => by
      rw [List.getElem_map, List.getElem_range, RowBuf.word, List.getElem?_eq_getElem hi, Option.getD_some]
  have hobs := (h.transfers t r.word stall width _ 0 hs.le hl hc c hp).latchAndShow (hoe.trans ho)
    (hlat.trans hl) delay pulse
  rwa [hcols, List.take_append_of_le_length (by simp [hr]), List.take_of_length_le (by simp [hr])] at hobs

/-- With the row in the output register, exactly the LEDs of the addressed row pair whose bit of the row is
1 are lit while the output is on, column 0 at the last position (00_scope.md R12). -/
theorem lit_row {r : RowBuf} (h : Observed width p₀ base b shift r.words.reverse) (ho : b.oe = true) :
    ∃ new, b.wave = new ++ base ∧ (p₀.observe width new).out = r.words.reverse ∧
      (p₀.observe width new).levels = { oe := b.oe, lat := b.lat, clk := b.clk } ∧
      ∀ led : Led, (p₀.observe width new).lit led = true ↔ led.pair = b.addr ∧
        led.position < r.words.length ∧
          (r.word (r.words.length - 1 - led.position)).getLsbD led.bit = true := by
  obtain ⟨-, new, hw, p, hp, hlev, -, haddr, -, hout⟩ := h
  refine ⟨new, hw, hp ▸ hout, hp ▸ hlev, fun led => ?_⟩
  rw [Panel.lit_iff, hp, hlev, haddr, hout, reversed_row_bit]
  simp only [ho, true_and, and_congr_right_iff]
  intro _ hpos
  rw [RowBuf.word, List.getElem?_eq_getElem (by omega), Option.getD_some, Option.getD_some]

/-- A train of a whole row and its latch end with the row lit on the row pair that `ADDR` had before. -/
theorem train_lights_row (h : Observed width p₀ base b shift out) (hs : shift.length = width)
    (ho : b.oe = false) (hl : b.lat = false) (hc : b.clk = false) {r : RowBuf}
    (hr : r.words.length = width) {t : TrainTiming} {stall : Nat → Nat}
    (hp : b.pulseTrain t r.word stall width = .complete c) (delay pulse : Nat) :
    ∃ new, (c.latchAndShow delay pulse).wave = new ++ base ∧
      (p₀.observe width new).out = r.words.reverse ∧
      (p₀.observe width new).levels = { oe := true, lat := false, clk := false } ∧
      ∀ led : Led, (p₀.observe width new).lit led = true ↔ led.pair = b.addr ∧ led.position < width ∧
        (r.word (width - 1 - led.position)).getLsbD led.bit = true := by
  obtain ⟨-, -, -, haddr, hclk, -⟩ := transfers_complete t r.word stall width _ 0 b c (by omega) hp
  have hlit := (h.trainThenShow hs ho hl hc hr hp delay pulse).lit_row (latchAndShow_oe ..)
  rwa [hr, latchAndShow_oe, latchAndShow_lat, latchAndShow_clk, hclk hc, latchAndShow_addr, haddr] at hlit

end Bus.Observed

/-- In a run the address drive of a cycle leaves on `ADDR` exactly its row: the row is below `R ≤ 2^A`, and
the lines above `A` stay 0 (10_state.md R38, 00_scope.md R6). -/
theorem State.Inv.addressedBus_addr {s : State} (h : s.Inv) (hm : s.mode.initialised = true) :
    s.addressedBus.addr = s.pos.row := by
  have hfit : s.pos.row.toNat < 2 ^ s.cfg.addressLines :=
    (h.position hm).row.trans_le (addressLinesAreTheFewest s.cfg (h.initialised hm).1.rows.2.2).1
  refine BitVec.eq_of_getLsbD_eq fun i hi => ?_
  rw [State.addressedBus, Bus.blankThenAddress_bit]
  by_cases hiA : i < s.cfg.addressLines
  · rw [if_pos ⟨hiA, hi⟩]
  · have hAi : s.cfg.addressLines ≤ i := by omega
    rw [if_neg (by omega), Bus.advance_addr, h.addrHigh hm i hAi, BitVec.getLsbD,
      Nat.testBit_lt_two_pow (hfit.trans_le (Nat.pow_le_pow_right (by omega) hAi))]

/-- A `SHIFT_DONE` that ends in Latching completed its train (41_scheduler.md R130). -/
theorem exec_shiftDone_latching {s t : State} (ha : s.agent = .scheduler) (hm : s.mode = .running)
    (hf : s.fsm = .shifting) (h : exec .shiftDone s = .next t) (ht : t.fsm = .latching) :
    ∃ c, s.bus.pulseTrain s.trainTiming s.rowbuf.word s.env.stallOf s.cfg.rowPixels.toNat = .complete c ∧
      t = State.quiet { s with bus := c, fsm := .latching } := by
  have hs : t = s.pulseTrain s.cfg.rowPixels.toNat (fun t => State.quiet { t with fsm := .latching })
      (fun t => t.quiet) :=
    (Host.Outcome.next.inj ((State.stepGate_open s .shifting _ ha hm hf).symm.trans h)).symm
  obtain ⟨c, -, hc, hd⟩ | ⟨k, c, -, -, hd⟩ | ⟨-, hd⟩ := s.pulseTrain_cases s.cfg.rowPixels.toNat
    (fun t => State.quiet { t with fsm := .latching }) (fun t => t.quiet)
  · exact ⟨c, hc, hs.trans hd⟩
  · simp [hs, hd] at ht
  · simp [hs, hd] at ht

/-- Settles O60: a whole train pushes out whatever the observer held and the latch shows the row; in a run
that row is the selected plane, and `ADDR` is the selected row pair. -/
theorem panelShowsTheRowBuffer : Obligations.PanelShowsTheRowBuffer := by
  constructor
  · intro s t u p ha hm hf _ hp ho hl hc hw hs hlev hd haddr ht htf hu
    obtain ⟨c, htrain, rfl⟩ := exec_shiftDone_latching ha hm hf ht htf
    have hlatch := exec_latchDone (State.quiet { s with bus := c, fsm := .latching }) ha hm rfl
    obtain rfl := Host.Outcome.next.inj (hlatch.symm.trans hu)
    have hstart := Bus.Observed.start (width := s.cfg.rowPixels.toNat) hp (by rw [hlev, ho, hl, hc]) hd haddr
    exact hstart.train_lights_row hs ho hl hc hw htrain s.cfg.latchDelayTu s.cfg.latchPulseTu
  · intro s p h hm hf hi hr he hst hs hlev hd haddr
    have hmi : s.mode.initialised = true := by rw [hm]; rfl
    obtain ⟨-, -, hgrid⟩ := h.initialised hmi
    obtain ⟨hl, hc, -⟩ := h.quiet
    have ho : s.bus.oe = false := by rw [← Bool.not_eq_true, h.shown, hf]; decide
    obtain ⟨c, htrain, hrun⟩ := (h.cycleReady hm hf hi hr he hst).run_to_blanking
    have haddressed := ((Bus.Observed.start (width := s.cfg.rowPixels.toNat) (h.pins.2 (.inl hm))
      (by rw [hlev, ho, hl, hc]) hd haddr).advance s.env.gap).blankThenAddress ho hl s.cfg.addressLines
      s.pos.row
    obtain ⟨new, hnew, -, -, hlit⟩ := haddressed.train_lights_row hs (by simp) (by simpa using hl)
      (by simpa using hc) (FrameBuffer.rowPlane_length ..) htrain s.cfg.latchDelayTu s.cfg.latchPulseTu
    refine ⟨s.showing c, hrun, rfl, rfl, rfl, new, hnew, fun led => (hlit led).trans ?_⟩
    refine and_congr (by rw [← State.addressedBus, h.addressedBus_addr hmi]; rfl)
      (and_congr_right fun hpos => ?_)
    rw [State.nextRow, RowBuf.word_rowPlane _ _ _ _ _ _ _ (by omega),
      FrameBuffer.columnWord_grid _ _ _ _ _ _ hgrid]
    rfl

end Sys2Proof.Machine
end

section
/-! PROOFS of the state family (10_state.md): what each register shows (R20 to R38) and holds after reset
(R42), which line carries which output (R25 to R27, R38, R39), and what a step does to the pins, to time and
to the trace (R39, R41). -/

namespace Sys2Proof.Machine

/-! ## Registers by number (10_state.md R20 to R38) -/

/-- Above `0x4C` there is no register. -/
theorem State.register_of_lt (s : State) {n : Nat} (h : 0x4C < n) : s.register n = none := by
  unfold State.register
  split
  case h_14 =>
    unfold ConfigRegs.read
    split
    case h_11 => exact if_neg (by omega)
    all_goals omega
  all_goals omega

/-- The registers there are, whatever the number (R20). -/
theorem State.register_isSome (s : State) (n : Nat) :
    (s.register n).isSome = (isRegister (BitVec.ofNat 8 n) && decide (n < 256)) := by
  by_cases h : n < 256
  · have hn : (BitVec.ofNat 8 n).toNat = n := by simpa using h
    simpa [hn, h] using s.register_isRegister (BitVec.ofNat 8 n)
  · simp [s.register_of_lt (n := n) (by omega), h]

/-- The ranges of the register numbers. -/
theorem State.register_eq_some_iff (s : State) (n : Nat) : (∃ r, s.register n = some r) ↔
    n ≤ 0x09 ∨ (0x10 ≤ n ∧ n ≤ 0x29) ∨ (0x40 ≤ n ∧ n ≤ 0x4C) := by
  rw [← Option.isSome_iff_exists, s.register_isSome]
  by_cases h : n < 256
  · have hn : (BitVec.ofNat 8 n).toNat = n := by simpa using h
    simp [isRegister, isConfigRegister, hn, h, or_assoc]
  · simp [h]; omega

/-- The register of a role is its entry of the binding table (R26, R27). -/
theorem State.register_bind (s : State) {role : Nat} (h : role < 26) :
    s.register (0x10 + role) = some (s.cfg.bindReg role) := by
  have hcfg : s.register (0x10 + role) = s.cfg.read (0x10 + role) := by
    unfold State.register
    split
    case h_14 => rfl
    all_goals omega
  rw [hcfg]
  unfold ConfigRegs.read
  split
  case h_11 => rw [if_pos (by omega), Nat.add_sub_cancel_left]
  all_goals omega

/-- The five flags stand in bits 0 to 4 (R34). -/
theorem State.flags_getLsbD (s : State) (i : Nat) : s.flags.getLsbD i =
    if i = 0 then s.activeBuf else if i = 1 then s.swapPending else if i = 2 then s.shutdownReq
    else if i = 3 then s.bus.pinsActive else if i = 4 then s.trainBusy else false := by
  have hbits : s.flags.getLsbD i = (decide (i = 0) && s.activeBuf || decide (i = 1) && s.swapPending
      || decide (i = 2) && s.shutdownReq || decide (i = 3) && s.bus.pinsActive
      || decide (i = 4) && s.trainBusy) := by
    simp [State.flags, bitAt_getLsbD]
  rw [hbits]
  split_ifs <;> simp_all

/-- A field of a register stands from its lowest bit on. -/
theorem shiftedField_getLsbD {w : Nat} (v : BitVec w) (k i : Nat) (h : k + w ≤ 32) :
    (v.setWidth 32 <<< k).getLsbD i = (decide (k ≤ i) && v.getLsbD (i - k)) := by
  by_cases hi : i < 32
  · have hk : (!decide (i < k)) = decide (k ≤ i) := by rw [← decide_not, decide_eq_decide]; exact not_lt
    simp [hi, hk]
  · simp [hi, BitVec.getLsbD_of_ge v (i - k) (by omega)]

/-- The control lines stand in bits 0 to 2, the colour bits in bits 8:3, the address in bits 31:16 (R38). -/
theorem Bus.out_getLsbD (b : Bus) (i : Nat) : b.out.getLsbD i =
    if i = 0 then b.oe else if i = 1 then b.lat else if i = 2 then b.clk
    else if i < 9 then b.data.getLsbD (i - 3)
    else if i < 16 then false else b.addr.getLsbD (i - 16) := by
  have hbits : b.out.getLsbD i = (decide (i = 0) && b.oe || decide (i = 1) && b.lat || decide (i = 2) && b.clk
      || decide (3 ≤ i) && b.data.getLsbD (i - 3) || decide (16 ≤ i) && b.addr.getLsbD (i - 16)) := by
    simp (disch := decide) only [Bus.out, BitVec.getLsbD_or, bitAt_getLsbD, shiftedField_getLsbD]
  have hdata (h : 9 ≤ i) : b.data.getLsbD (i - 3) = false := BitVec.getLsbD_of_ge _ _ (by omega)
  rw [hbits]
  split_ifs with h0 h1 h2 h9 h16
  · simp [h0]
  · simp [h1]
  · simp [h2]
  · simp [h0, h1, h2, show 3 ≤ i by omega, show ¬ 16 ≤ i by omega]
  · simp [h0, h1, h2, hdata (by omega), h16]
  · simp [h0, h1, h2, hdata (by omega), show 16 ≤ i by omega]

/-- Settles O13: each number reads as its field by evaluation; the bits of `FLAGS` and `OUT`, the binding
words and the reserved numbers are the lemmas above. -/
theorem registersHoldTheirFields : Obligations.RegistersHoldTheirFields := by
  refine ⟨fun s => ⟨rfl, rfl, rfl, rfl, rfl, rfl, rfl, rfl, rfl, ⟨_, rfl, rfl, rfl⟩,
    fun role h => ⟨_, s.register_bind h, rfl, rfl⟩, ?mode, ?fsm, rfl, rfl, rfl, ?errCode, rfl, ?lastResult,
    rfl, rfl, rfl, rfl, rfl, s.flags_getLsbD, s.bus.out_getLsbD, s.register_eq_some_iff⟩, ?status⟩
  case mode => rw [State.register]; cases s.mode <;> rfl
  case fsm => rw [State.register]; cases s.fsm <;> rfl
  case errCode => rw [State.register]; cases s.errCode <;> rfl
  case lastResult => rw [State.register]; cases s.lastResult <;> rfl
  case status => intro st; cases st <;> rfl

/-! ## The reset state (10_state.md R42) -/

/-- No role has an assignment after a reset. -/
theorem ConfigRegs.reset_bindReg (role : Nat) : ConfigRegs.reset.bindReg role = 0 := by
  simp only [ConfigRegs.bindReg, ConfigRegs.reset, Vector.getElem?_replicate]
  split <;> rfl

/-- Every register that can be read shows 0 after the first reset. -/
theorem State.reset_register_eq_zero {n : Nat} {r : Word} (h : State.reset.register n = some r) : r = 0 := by
  unfold State.register at h
  split at h
  case h_14 =>
    unfold ConfigRegs.read at h
    split at h
    case h_11 =>
      split at h
      · rw [← Option.some.inj h]; exact ConfigRegs.reset_bindReg _
      · contradiction
    all_goals exact (Option.some.inj h).symm
  all_goals exact (Option.some.inj h).symm

theorem State.reset_atReset : State.reset.AtReset where
  mode := rfl
  configuration := by decide
  binding := ConfigRegs.reset_bindReg
  fsm := rfl
  pos := by decide
  cur := by decide
  flags := by decide
  error := by decide
  lastResult := rfl
  divCfg := rfl
  outputs := by decide

/-- Settles O8: a number names a register or not in every state alike, and in the reset state the register
shows 0. -/
theorem resetStateIsTheSpecs : Obligations.ResetStateIsTheSpecs := by
  refine ⟨State.reset_atReset, rfl, rfl, fun n => ?_⟩
  have hsome := State.reset.register_isSome n
  cases hr : State.reset.register n with
  | none => rw [hr] at hsome; rw [if_neg]; simpa using hsome
  | some r => rw [hr] at hsome; rw [if_pos, State.reset_register_eq_zero hr]; simpa using hsome

/-- Settles O57: in `Reset` with nothing driven, nothing written and nothing requested, each clause holds
by evaluation or asks about another mode. -/
theorem resetMeetsTheInvariant : Obligations.ResetMeetsTheInvariant where
  requests := by simp [State.reset]
  memory := .nil
  idle := fun _ => rfl
  quiet := ⟨rfl, rfl, rfl⟩
  shown := by decide
  error := by decide
  pins := by decide
  released := fun _ => ⟨rfl, rfl⟩
  initialised := nofun
  position := nofun
  origin := fun _ => rfl
  current := fun h => absurd rfl h
  rowWords := by decide
  addrHigh := nofun
  shutdown := nofun
  wave := trivial
  ordered := trivial
  traced := by decide
  grid := by decide

/-! ## Outputs and lines (10_state.md R25 to R27, R38, R39) -/

theorem ConfigRegs.roleOf_lt (c : ConfigRegs) (l : Line) : c.roleOf l < 26 := by
  have hclk := (c.eq_activeClockRole c.activeClockRole).1 rfl
  cases l <;> simp only [ConfigRegs.roleOf] <;> omega

/-- A role that is no output's role carries nothing (R26). -/
theorem ConfigRegs.outputOf_eq_none (c : ConfigRegs) {role : Nat} (h : ∀ l, c.roleOf l ≠ role) :
    c.outputOf role = none :=
  Option.eq_none_iff_forall_ne_some.2 fun l hl => h l ((c.outputOf_eq_some role l).1 hl)

/-- The clock role that is not active is no output's role (R25). -/
theorem ConfigRegs.roleOf_ne_inactiveClock (c : ConfigRegs) {role : Nat} (h : role = 2 ∨ role = 3)
    (hne : role ≠ c.activeClockRole) (l : Line) : c.roleOf l ≠ role := by
  cases l <;> simp only [ConfigRegs.roleOf] <;> omega

/-- In a valid configuration the clock role that is not active has no assignment (40_configuration.md R105,
R111). -/
theorem ConfigRegs.Valid.inactiveClock_unbound {c : ConfigRegs} (hv : c.Valid) {role : Nat}
    (h : role = 2 ∨ role = 3) (hne : role ≠ c.activeClockRole) : c.bound role = false := by
  have hclk := (c.eq_activeClockRole c.activeClockRole).1 rfl
  have hrole : role = 5 - c.activeClockRole := by omega
  rw [hrole]
  exact hv.clock.2

/-- A line carries the level of the output that appears on it, while the pins are active (R39). -/
theorem State.lineLevel_of_outputOn (s : State) {n : BitVec 16} {l : Line} (h : s.cfg.outputOn n = some l) :
    s.lineLevel n = if s.bus.pinsActive then some (s.bus.level l) else none := by
  rw [State.lineLevel, h, Option.map_some]

/-- No output appears on a line that no required role names (R26, R27). -/
theorem ConfigRegs.outputOn_eq_none (c : ConfigRegs) {n : BitVec 16}
    (h : ∀ r ∈ c.requiredRoles, c.line r ≠ n) : c.outputOn n = none := by
  have hfind : (c.requiredRoles.find? fun role => c.bound role && c.line role == n) = none :=
    List.find?_eq_none.2 fun r hr => by simp [h r hr]
  rw [ConfigRegs.outputOn, hfind, Option.bind_none]

/-- Settles O22: role and output determine each other by `outputOf_eq_some`, output and line by
`outputOn_eq_some`. -/
theorem outputsAppearOnTheirRolesLines : Obligations.OutputsAppearOnTheirRolesLines := by
  have carries (c : ConfigRegs) (l : Line) : c.outputOf (c.roleOf l) = some l :=
    (c.outputOf_eq_some _ l).2 rfl
  refine ⟨fun c => ⟨rfl, rfl, fun i => carries c (.data i), fun i => carries c (.addr i),
    fun role h => c.outputOf_eq_none fun l => ((c.roleOf_lt l).trans_le h).ne,
    fun l role => c.outputOf_eq_some role l, fun l => rfl, rfl, rfl, carries c .clk,
    fun role h hne => ?_, fun hv => if_pos hv.clock.1⟩, fun s hv => ⟨fun l hl n => ?_, fun n hn => ?_⟩⟩
  · have hrole := c.roleOf_ne_inactiveClock h hne
    exact ⟨c.outputOf_eq_none hrole, hrole, fun hv => hv.inactiveClock_unbound h hne⟩
  · have hon := s.cfg.outputOn_eq_some hv l hl n
    exact ⟨hon, fun h => s.lineLevel_of_outputOn (hon.2 h)⟩
  · simp [State.lineLevel, s.cfg.outputOn_eq_none hn]

/-! ## What a step does to the timeline (10_state.md R39, R41) -/

/-- The timeline after a reset: the lines are released, time and trace stay (70_reset_and_hazards.md R216). -/
def Bus.released (b : Bus) : Bus := { Bus.reset with now := b.now, wave := b.wave }

/-- The bus after an operation: the host's `START` in `Configured` or `Stopped` activates inactive pins,
`RESET` releases the lines, and anything else goes on along the timeline. -/
theorem exec_bus {i : Instr} {s t : State} (h : exec i s = .next t) :
    s.bus.Later t.bus ∨ t.bus = s.bus.released ∨
      ((i = .start ∧ s.agent = .host) ∧ (s.mode = .configured ∨ s.mode = .stopped) ∧ t.mode = .running ∧
        s.bus.pinsActive = false ∧ t.bus = s.bus.activatePins s.cfg.addressLines) := by
  cases exec_outcomes i s t h
  case start ha hm =>
    cases s.bus.pinsActive with
    | true => exact .inl (by simpa using Bus.Later.refl s.bus)
    | false => exact .inr (.inr ⟨⟨rfl, ha⟩, hm, rfl, rfl, by simp⟩)
  case reset => exact .inr (.inl rfl)
  all_goals left
  case initFails he _ _ => obtain rfl | rfl := he <;> simpa using Bus.Later.refl s.bus
  case overlap | emitOverlap | trainOverlap => simpa using Bus.Later.safeLevels s.bus
  case tickStop | tickSwap | tick => exact .advance _ _
  case select => exact .blankThenAddress _ _ _
  case shiftDone hc | train hc => exact .train_complete hc
  case overrun hc | trainOverrun hc => simpa using (Bus.Later.train_overrun hc).trans (.safeLevels _)
  case latchDone => exact .latchAndShow _ _ _
  case blankDone | blankStop => exact .onTimeThenBlank _ _
  case emit hc =>
    exact (((Bus.Later.blankThenAddress _ _ _).trans (.train_complete hc)).trans (.latchAndShow _ _ _)).trans
      (.onTimeThenBlank _ _)
  case emitOverrun hc =>
    simpa using ((Bus.Later.blankThenAddress _ _ _).trans (.train_overrun hc)).trans (.safeLevels _)
  all_goals exact .refl _

/-- The bus after a step: a request of the environment leaves it alone, a hardware reset releases the lines, and
an operation does as `exec_bus` says, for the Scheduler never `START`. -/
theorem step_bus {s t : State} (h : step s = .next t) :
    s.bus.Later t.bus ∨ t.bus = s.bus.released ∨
      (s.nextIsStart ∧ (s.mode = .configured ∨ s.mode = .stopped) ∧ t.mode = .running ∧
        s.bus.pinsActive = false ∧ t.bus = s.bus.activatePins s.cfg.addressLines) := by
  obtain ⟨-, -, hx⟩ | ⟨-, -, rfl⟩ | ⟨rest, a, w, i, hi, hd, hx⟩ | ⟨rest, a, w, e, -, -, rfl⟩ |
    ⟨rest, e, -, rfl⟩ | ⟨rest, -, rfl⟩ := step_cases s t h
  · exact (exec_bus hx).imp_right (.imp_right fun ⟨⟨hstart, _⟩, _⟩ => by cases s.fsm <;> contradiction)
  · exact .inl (.refl _)
  · refine (exec_bus hx).imp_right (.imp_right ?_)
    rintro ⟨⟨rfl, rfl⟩, hstarted⟩
    exact ⟨⟨w, by rw [hi]; rfl, hd⟩, hstarted⟩
  · exact .inl (.refl _)
  · exact .inl (.refl _)
  · exact .inr (.inl rfl)

/-- Settles O53: along the timeline and by a release inactive pins stay inactive, and what is left of
`step_bus` is `START`. -/
theorem onlyStartActivatesPins : Obligations.OnlyStartActivatesPins := by
  intro s t h hp
  obtain hlater | hreleased | ⟨hstart, hmode, hrun, -, hbus⟩ := step_bus h
  · exact .inl ⟨hlater.pins.trans hp, hlater.wave_inactive hp⟩
  · rw [hreleased]; exact .inl ⟨rfl, rfl⟩
  · rw [hbus]; exact .inr ⟨(s.bus.activatePins_later _).pins, hstart, hrun, hmode⟩

/-- Along the timeline time does not go back and new events fall between the two times. -/
theorem Bus.Later.grows {b c : Bus} (h : b.Later c) : b.now ≤ c.now ∧
    ∃ new : List Event, c.wave = new ++ b.wave ∧ ∀ e ∈ new, b.now ≤ e.time ∧ e.time ≤ c.now := by
  obtain ⟨new, hwave, -, htimes⟩ := h.wave
  exact ⟨h.now, new, hwave, htimes⟩

/-- Settles O54: `START` records from the time and the trace it finds, a release keeps both. -/
theorem traceOnlyGrows : Obligations.TraceOnlyGrows := by
  intro s t h
  obtain hlater | hreleased | ⟨-, -, -, -, hbus⟩ := step_bus h
  · exact hlater.grows
  · rw [hreleased]; exact (Bus.Later.refl s.bus).grows
  · rw [hbus]; exact (s.bus.activatePins_later s.cfg.addressLines).grows

end Sys2Proof.Machine
end

section
/-! PROOFS of the memory family (20_memory.md): what a step does to the frame buffer; so the active buffer is
not written outside `Reset` (R66, R67), and the canonical form is kept (R60, R61; log 12). -/

namespace Sys2Proof.Machine

/-! ## What a step does to the frame buffer -/

/-- The frame buffer after an operation: `FB_WRITE` writes one location of the inactive buffer, `INIT` in
`Reset` takes the configured shape, and anything else leaves it alone. -/
theorem exec_fb {i : Instr} {s t : State} (h : exec i s = .next t) :
    t.fb = s.fb ∨
    (∃ (y x v : BitVec 16) (c : Channel),
      t.fb = s.fb.write s.cfg.colorDepth.toNat (!s.activeBuf) y.toNat x.toNat c v) ∨
    (s.mode = .reset ∧ t.fb = s.fb.takeShape s.cfg.shape) := by
  cases exec_outcomes i s t h
  case fbWrite ch y x v c _ _ _ => exact .inr (.inl ⟨y, x, v, c, rfl⟩)
  case init hm => exact .inr (.inr ⟨hm, rfl⟩)
  all_goals exact .inl (by simp)

/-- The frame buffer after a step: a request of the environment leaves it alone, a hardware reset forgets its
contents, and an operation does as `exec_fb` says. -/
theorem step_fb {s t : State} (h : step s = .next t) :
    t.fb = s.fb ∨
    (∃ (y x v : BitVec 16) (c : Channel),
      t.fb = s.fb.write s.cfg.colorDepth.toNat (!s.activeBuf) y.toNat x.toNat c v) ∨
    (s.mode = .reset ∧ t.fb = s.fb.takeShape s.cfg.shape) ∨
    (s.nextIsReset ∧ t.fb = s.fb.forget State.reset.fb.shape) := by
  obtain ⟨-, -, hx⟩ | ⟨-, -, rfl⟩ | ⟨rest, a, w, i, -, -, hx⟩ | ⟨rest, a, w, e, -, -, rfl⟩ |
    ⟨rest, e, -, rfl⟩ | ⟨rest, hi, rfl⟩ := step_cases s t h
  · exact (exec_fb hx).imp_right (.imp_right .inl)
  · exact .inl rfl
  · exact (exec_fb hx).imp_right (.imp_right .inl)
  · exact .inl rfl
  · exact .inl rfl
  · exact .inr (.inr (.inr ⟨.inl (by rw [hi]; rfl), rfl⟩))

/-! ## The active buffer (20_memory.md R66, R67) -/

/-- A write to one buffer leaves every location of the other alone (20_memory.md R61). -/
theorem FrameBuffer.read_write_otherBuffer (f : FrameBuffer) (depth depth' : Nat) (b : Bool)
    {y y' x x' : Nat} (c c' : Channel) (v : BitVec 16) (hy : y < 65536) (hy' : y' < 65536)
    (hx : x < 65536) (hx' : x' < 65536) :
    (f.write depth (!b) y x c v).read depth' b y' x' c' = f.read depth' b y' x' c' := by
  refine f.read_write_other _ _ _ _ _ _ _ _ _ _ _ fun hkey => ?_
  obtain ⟨hbuf, -⟩ := locationKey_inj hy' hy hx' hx hkey
  exact (Bool.eq_not_self b).1 hbuf

/-- Settles O48: outside `Reset` and without a reset, what `step_fb` leaves is a write to the inactive
buffer. -/
theorem activeBufferIsNeverWritten : Obligations.ActiveBufferIsNeverWritten := by
  intro s t h hm hr depth y x c hy hx
  obtain hfb | ⟨y', x', v, c', hfb⟩ | ⟨hreset, -⟩ | ⟨hreset, -⟩ := step_fb h
  · rw [hfb]
  · rw [hfb]; exact s.fb.read_write_otherBuffer _ _ _ _ _ _ y'.isLt hy x'.isLt hx
  · exact absurd hreset hm
  · exact absurd hreset hr

/-! ## The canonical form (log 12) -/

/-- Settles O49: each change of the frame buffer in `step_fb` keeps the canonical form. -/
theorem everyStepKeepsTheMemoryCanonical : Obligations.EveryStepKeepsTheMemoryCanonical := by
  refine ⟨.nil, fun s t h hwf => ?_⟩
  obtain hfb | ⟨y, x, v, c, hfb⟩ | ⟨-, hfb⟩ | ⟨-, hfb⟩ := step_fb h
  · rw [hfb]; exact hwf
  · rw [hfb]; exact s.fb.wf_write _ _ _ _ _ _ hwf
  · rw [hfb]; exact s.fb.wf_takeShape _ hwf
  · rw [hfb]; exact s.fb.wf_forget _

end Sys2Proof.Machine
end

section
/-! PROOFS of the encoding family (30_encoding.md): decoding and encoding are inverse to each other (R80 to
R84), a word is of a row exactly when it meets the row's mask and match (R84, R89), and what a presented word
and a refused operation do (R66, R89, R90, R92). -/

namespace Sys2Proof

/-! ## Words by their fields (R80) -/

theorem pack_eq_iff {op a : BitVec 8} {b : BitVec 16} {c : BitVec 32} {w : CommandWord} :
    pack op a b c = w ↔ fieldOp w = op ∧ fieldA w = a ∧ fieldB w = b ∧ fieldC w = c := by
  constructor
  · rintro rfl
    simp
  · rintro ⟨rfl, rfl, rfl, rfl⟩
    exact pack_fields w

/-! ## What each format accepts (R81): the words whose unused fields are zero -/

theorem unusedZero_eq_ok_iff {ok : Bool} {i j : Instr} : unusedZero ok i = .ok j ↔ ok = true ∧ i = j := by
  cases ok <;> simp [unusedZero]

section
variable {w : CommandWord} {i : Instr}

theorem formatZ_eq_ok_iff {j : Instr} : formatZ w j = .ok i ↔ pack (fieldOp w) 0 0 0 = w ∧ j = i := by
  simp [formatZ, unusedZero_eq_ok_iff, pack_eq_iff, and_assoc]

theorem formatA_eq_ok_iff {f : BitVec 8 → Instr} :
    formatA w f = .ok i ↔ pack (fieldOp w) (fieldA w) 0 0 = w ∧ f (fieldA w) = i := by
  simp [formatA, unusedZero_eq_ok_iff, pack_eq_iff]

theorem formatC_eq_ok_iff {f : BitVec 32 → Instr} :
    formatC w f = .ok i ↔ pack (fieldOp w) 0 0 (fieldC w) = w ∧ f (fieldC w) = i := by
  simp [formatC, unusedZero_eq_ok_iff, pack_eq_iff]

theorem formatAC_eq_ok_iff {f : BitVec 8 → BitVec 32 → Instr} :
    formatAC w f = .ok i ↔ pack (fieldOp w) (fieldA w) 0 (fieldC w) = w ∧ f (fieldA w) (fieldC w) = i := by
  simp [formatAC, unusedZero_eq_ok_iff, pack_eq_iff]

theorem formatAB_eq_ok_iff {f : BitVec 8 → BitVec 16 → Instr} :
    formatAB w f = .ok i ↔ pack (fieldOp w) (fieldA w) (fieldB w) 0 = w ∧ f (fieldA w) (fieldB w) = i := by
  simp [formatAB, unusedZero_eq_ok_iff, pack_eq_iff]

end

/-! ## A packed word in its own format -/

section
variable (op a : BitVec 8) (b : BitVec 16) (c : BitVec 32)

theorem formatZ_pack (i : Instr) : formatZ (pack op 0 0 0) i = .ok i := formatZ_eq_ok_iff.2 (by simp)

theorem formatA_pack (f : BitVec 8 → Instr) : formatA (pack op a 0 0) f = .ok (f a) :=
  formatA_eq_ok_iff.2 (by simp)

theorem formatC_pack (f : BitVec 32 → Instr) : formatC (pack op 0 0 c) f = .ok (f c) :=
  formatC_eq_ok_iff.2 (by simp)

theorem formatAC_pack (f : BitVec 8 → BitVec 32 → Instr) : formatAC (pack op a 0 c) f = .ok (f a c) :=
  formatAC_eq_ok_iff.2 (by simp)

theorem formatAB_pack (f : BitVec 8 → BitVec 16 → Instr) : formatAB (pack op a b 0) f = .ok (f a b) :=
  formatAB_eq_ok_iff.2 (by simp)

end

/-! ## Decoding and encoding are inverse to each other (R81 to R84) -/

/-- Settles O1: the operation code selects the row, and the row's format reads back what it packed. -/
theorem decodeOfEncodeIsTheInstruction : Obligations.DecodeOfEncodeIsTheInstruction := by
  intro i
  cases i with
  | loadcfg => exact (decode_loadcfg _ (fieldOp_pack ..)).trans (formatAC_pack ..)
  | validate => exact (decode_validate _ (fieldOp_pack ..)).trans (formatZ_pack ..)
  | bind => exact (decode_bind _ (fieldOp_pack ..)).trans (formatA_pack ..)
  | configureDivider => exact (decode_configureDivider _ (fieldOp_pack ..)).trans (formatC_pack ..)
  | init => exact (decode_init _ (fieldOp_pack ..)).trans (formatZ_pack ..)
  | start => exact (decode_start _ (fieldOp_pack ..)).trans (formatZ_pack ..)
  | shutdown => exact (decode_shutdown _ (fieldOp_pack ..)).trans (formatZ_pack ..)
  | reset => exact (decode_reset _ (fieldOp_pack ..)).trans (formatZ_pack ..)
  | statusRead => exact (decode_statusRead _ (fieldOp_pack ..)).trans (formatA_pack ..)
  | tick => exact (decode_tick _ (fieldOp_pack ..)).trans (formatZ_pack ..)
  | select => exact (decode_select _ (fieldOp_pack ..)).trans (formatZ_pack ..)
  | shiftDone => exact (decode_shiftDone _ (fieldOp_pack ..)).trans (formatZ_pack ..)
  | latchDone => exact (decode_latchDone _ (fieldOp_pack ..)).trans (formatZ_pack ..)
  | blankDone => exact (decode_blankDone _ (fieldOp_pack ..)).trans (formatZ_pack ..)
  | emit => exact (decode_emit _ (fieldOp_pack ..)).trans (formatAB_pack ..)
  | startPulseTrain => exact (decode_startPulseTrain _ (fieldOp_pack ..)).trans (formatC_pack ..)
  | onCycleComplete => exact (decode_onCycleComplete _ (fieldOp_pack ..)).trans (formatA_pack ..)
  | getActiveRowPlane => exact (decode_getActiveRowPlane _ (fieldOp_pack ..)).trans (formatAB_pack ..)
  | swapBuffers => exact (decode_swapBuffers _ (fieldOp_pack ..)).trans (formatZ_pack ..)
  | fbWrite ch y x val =>
    have h := decode_fbWrite (encode (.fbWrite ch y x val)) (fieldOp_pack ..)
    simpa [encode] using h

theorem eq_ofNat_of_toNat_eq {k n : Nat} {x : BitVec k} (h : x.toNat = n) : x = BitVec.ofNat k n := by
  rw [← h, BitVec.ofNat_toNat, BitVec.setWidth_eq]

/-- The converse of `decodeOfEncodeIsTheInstruction`: a word that decodes is the encoder's, by the format of
the row its operation code selects. -/
theorem encode_of_decode {w : CommandWord} {i : Instr} (h : decode w = .ok i) : encode i = w := by
  unfold decode at h
  split at h
  -- `h_1` to `h_20` are the rows of R84 in order, grouped by format below; `h_21` is the reserved codes (R89).
  case h_21 => cases h
  case h_20 hop =>
    cases h
    rw [encode, fieldC_halves]
    exact pack_eq_iff.2 ⟨BitVec.eq_of_toNat_eq hop, rfl, rfl, rfl⟩
  all_goals
    rename_i hop
    replace hop := eq_ofNat_of_toNat_eq hop
  case' h_2 | h_5 | h_6 | h_7 | h_8 | h_10 | h_11 | h_12 | h_13 | h_14 | h_19 =>
    obtain ⟨hw, rfl⟩ := formatZ_eq_ok_iff.1 h
  case' h_3 | h_9 | h_17 => obtain ⟨hw, rfl⟩ := formatA_eq_ok_iff.1 h
  case' h_4 | h_16 => obtain ⟨hw, rfl⟩ := formatC_eq_ok_iff.1 h
  case' h_1 => obtain ⟨hw, rfl⟩ := formatAC_eq_ok_iff.1 h
  case' h_15 | h_18 => obtain ⟨hw, rfl⟩ := formatAB_eq_ok_iff.1 h
  all_goals rwa [hop] at hw

theorem decode_eq_ok_iff {w : CommandWord} {i : Instr} : decode w = .ok i ↔ encode i = w :=
  ⟨encode_of_decode, fun h => h ▸ decodeOfEncodeIsTheInstruction i⟩

theorem encode_injective {i j : Instr} (h : encode i = encode j) : i = j :=
  Except.ok.inj ((decode_eq_ok_iff.2 h).symm.trans (decode_eq_ok_iff.2 rfl))

/-! ## Meeting a row's mask and match (R84), by format -/

section
variable {w : CommandWord} {op : BitVec 8}

theorem and_pack_eq_pack_iff {mop ma a : BitVec 8} {mb b : BitVec 16} {mc c : BitVec 32} :
    w &&& pack mop ma mb mc = pack op a b c ↔
      fieldOp w &&& mop = op ∧ fieldA w &&& ma = a ∧ fieldB w &&& mb = b ∧ fieldC w &&& mc = c := by
  rw [eq_comm, pack_eq_iff, fieldOp_and, fieldA_and, fieldB_and, fieldC_and]
  simp

theorem and_maskZ_iff : w &&& 0xFFFFFFFFFFFFFFFF#64 = pack op 0 0 0 ↔ pack op 0 0 0 = w := by
  have hm : 0xFFFFFFFFFFFFFFFF#64 = pack (.allOnes 8) (.allOnes 8) (.allOnes 16) (.allOnes 32) := rfl
  rw [hm, and_pack_eq_pack_iff, pack_eq_iff]
  simp only [BitVec.and_allOnes]

theorem and_maskA_iff : w &&& 0xFF00FFFFFFFFFFFF#64 = pack op 0 0 0 ↔ pack op (fieldA w) 0 0 = w := by
  have hm : 0xFF00FFFFFFFFFFFF#64 = pack (.allOnes 8) 0#8 (.allOnes 16) (.allOnes 32) := rfl
  rw [hm, and_pack_eq_pack_iff, pack_eq_iff]
  simp only [BitVec.and_allOnes, BitVec.and_zero, BitVec.ofNat_eq_ofNat, true_and]

theorem and_maskC_iff : w &&& 0xFFFFFFFF00000000#64 = pack op 0 0 0 ↔ pack op 0 0 (fieldC w) = w := by
  have hm : 0xFFFFFFFF00000000#64 = pack (.allOnes 8) (.allOnes 8) (.allOnes 16) 0#32 := rfl
  rw [hm, and_pack_eq_pack_iff, pack_eq_iff]
  simp only [BitVec.and_allOnes, BitVec.and_zero, BitVec.ofNat_eq_ofNat, and_true]

theorem and_maskAC_iff : w &&& 0xFF00FFFF00000000#64 = pack op 0 0 0 ↔
    pack op (fieldA w) 0 (fieldC w) = w := by
  have hm : 0xFF00FFFF00000000#64 = pack (.allOnes 8) 0#8 (.allOnes 16) 0#32 := rfl
  rw [hm, and_pack_eq_pack_iff, pack_eq_iff]
  simp only [BitVec.and_allOnes, BitVec.and_zero, BitVec.ofNat_eq_ofNat, true_and, and_true]

theorem and_maskAB_iff : w &&& 0xFF000000FFFFFFFF#64 = pack op 0 0 0 ↔
    pack op (fieldA w) (fieldB w) 0 = w := by
  have hm : 0xFF000000FFFFFFFF#64 = pack (.allOnes 8) 0#8 0#16 (.allOnes 32) := rfl
  rw [hm, and_pack_eq_pack_iff, pack_eq_iff]
  simp only [BitVec.and_allOnes, BitVec.and_zero, BitVec.ofNat_eq_ofNat, true_and]

theorem and_maskABC_iff : w &&& 0xFF00000000000000#64 = pack op 0 0 0 ↔
    pack op (fieldA w) (fieldB w) (fieldC w) = w := by
  have hm : 0xFF00000000000000#64 = pack (.allOnes 8) 0#8 0#16 0#32 := rfl
  rw [hm, and_pack_eq_pack_iff, pack_eq_iff]
  simp only [BitVec.and_allOnes, BitVec.and_zero, BitVec.ofNat_eq_ofNat, and_true]

end

section
variable (op a : BitVec 8) (b : BitVec 16) (c : BitVec 32)

theorem pack_and_maskZ : pack op 0 0 0 &&& 0xFFFFFFFFFFFFFFFF#64 = pack op 0 0 0 :=
  and_maskZ_iff.2 (by simp)

theorem pack_and_maskA : pack op a 0 0 &&& 0xFF00FFFFFFFFFFFF#64 = pack op 0 0 0 :=
  and_maskA_iff.2 (by simp)

theorem pack_and_maskC : pack op 0 0 c &&& 0xFFFFFFFF00000000#64 = pack op 0 0 0 :=
  and_maskC_iff.2 (by simp)

theorem pack_and_maskAC : pack op a 0 c &&& 0xFF00FFFF00000000#64 = pack op 0 0 0 :=
  and_maskAC_iff.2 (by simp)

theorem pack_and_maskAB : pack op a b 0 &&& 0xFF000000FFFFFFFF#64 = pack op 0 0 0 :=
  and_maskAB_iff.2 (by simp)

theorem pack_and_maskABC : pack op a b c &&& 0xFF00000000000000#64 = pack op 0 0 0 :=
  and_maskABC_iff.2 (by simp)

end

/-! ## Every word of a row, and no other (R84, R89) -/

/-- The encoder's word meets the mask and match of its own row. -/
theorem encode_and_tableMask (i : Instr) : encode i &&& tableMask i = tableMatch i := by
  cases i
  case validate | init | start | shutdown | reset | tick | select | shiftDone | latchDone | blankDone |
      swapBuffers => exact pack_and_maskZ _
  case bind | statusRead | onCycleComplete => exact pack_and_maskA _ _
  case configureDivider | startPulseTrain => exact pack_and_maskC _ _
  case loadcfg => exact pack_and_maskAC _ _ _
  case emit | getActiveRowPlane => exact pack_and_maskAB _ _ _
  case fbWrite => exact pack_and_maskABC _ _ _ _

/-- A word that meets a row's mask and match is the encoder's word of an operation of that row. -/
theorem exists_encode_of_and_tableMask {w : CommandWord} {i : Instr} (h : w &&& tableMask i = tableMatch i) :
    ∃ j, encode j = w ∧ tableMatch j = tableMatch i ∧ tableMask j = tableMask i := by
  cases i with
  | loadcfg => exact ⟨.loadcfg _ _, (and_maskAC_iff (op := 0x01)).1 h, rfl, rfl⟩
  | validate => exact ⟨.validate, (and_maskZ_iff (op := 0x02)).1 h, rfl, rfl⟩
  | bind => exact ⟨.bind _, (and_maskA_iff (op := 0x03)).1 h, rfl, rfl⟩
  | configureDivider => exact ⟨.configureDivider _, (and_maskC_iff (op := 0x04)).1 h, rfl, rfl⟩
  | init => exact ⟨.init, (and_maskZ_iff (op := 0x05)).1 h, rfl, rfl⟩
  | start => exact ⟨.start, (and_maskZ_iff (op := 0x06)).1 h, rfl, rfl⟩
  | shutdown => exact ⟨.shutdown, (and_maskZ_iff (op := 0x07)).1 h, rfl, rfl⟩
  | reset => exact ⟨.reset, (and_maskZ_iff (op := 0x08)).1 h, rfl, rfl⟩
  | statusRead => exact ⟨.statusRead _, (and_maskA_iff (op := 0x09)).1 h, rfl, rfl⟩
  | tick => exact ⟨.tick, (and_maskZ_iff (op := 0x10)).1 h, rfl, rfl⟩
  | select => exact ⟨.select, (and_maskZ_iff (op := 0x11)).1 h, rfl, rfl⟩
  | shiftDone => exact ⟨.shiftDone, (and_maskZ_iff (op := 0x12)).1 h, rfl, rfl⟩
  | latchDone => exact ⟨.latchDone, (and_maskZ_iff (op := 0x13)).1 h, rfl, rfl⟩
  | blankDone => exact ⟨.blankDone, (and_maskZ_iff (op := 0x14)).1 h, rfl, rfl⟩
  | emit => exact ⟨.emit _ _, (and_maskAB_iff (op := 0x18)).1 h, rfl, rfl⟩
  | startPulseTrain => exact ⟨.startPulseTrain _, (and_maskC_iff (op := 0x19)).1 h, rfl, rfl⟩
  | onCycleComplete => exact ⟨.onCycleComplete _, (and_maskA_iff (op := 0x1A)).1 h, rfl, rfl⟩
  | getActiveRowPlane => exact ⟨.getActiveRowPlane _ _, (and_maskAB_iff (op := 0x20)).1 h, rfl, rfl⟩
  | swapBuffers => exact ⟨.swapBuffers, (and_maskZ_iff (op := 0x21)).1 h, rfl, rfl⟩
  | fbWrite =>
    have hw := (and_maskABC_iff (op := 0x22)).1 h
    exact ⟨.fbWrite _ _ (fieldCHigh w) (fieldCLow w), by rwa [encode, fieldC_halves], rfl, rfl⟩

theorem tableMatch_and_tableMask (i : Instr) : tableMatch i &&& tableMask i = tableMatch i := by
  rw [← encode_and_tableMask, BitVec.and_assoc, BitVec.and_self]

/-- Rows with the same match have the same mask: the match is itself a word of the row, and it decodes as one
operation. -/
theorem tableMask_eq_of_tableMatch_eq {i j : Instr} (h : tableMatch j = tableMatch i) :
    tableMask j = tableMask i := by
  obtain ⟨k, hk, -, hki⟩ := exists_encode_of_and_tableMask (tableMatch_and_tableMask i)
  obtain ⟨l, hl, -, hlj⟩ := exists_encode_of_and_tableMask (tableMatch_and_tableMask j)
  have hkl : k = l := encode_injective (by rw [hk, hl, h])
  rw [← hki, ← hlj, hkl]

/-- Settles O2: a word that decodes is the encoder's word (`encode_of_decode`), which meets its row's mask and
match; and what meets them is an encoder's word of the row. -/
theorem wordsDecodeByMaskAndMatch : Obligations.WordsDecodeByMaskAndMatch := by
  refine ⟨fun w i => ⟨?_, fun h => ?_⟩, fun w i => encode_of_decode⟩
  · rintro ⟨j, hj, hrow⟩
    rw [← encode_of_decode hj, ← tableMask_eq_of_tableMatch_eq hrow, encode_and_tableMask, hrow]
  · obtain ⟨j, hj, hrow, -⟩ := exists_encode_of_and_tableMask h
    exact ⟨j, decode_eq_ok_iff.2 hj, hrow⟩

/-- Settles O3: the words of V11 are closed, so the decoder runs on each. -/
theorem workedWordsDecode : Obligations.WorkedWordsDecode := by
  unfold Obligations.WorkedWordsDecode
  decide

end Sys2Proof

namespace Sys2Proof.Machine

/-! ## A presented word (R66, R89, R92) -/

/-- Settles O4: the step takes the head of the inbox, and what is presented is what it decodes to. -/
theorem stepRunsThePresentedWord : Obligations.StepRunsThePresentedWord := by
  intro s a w rest hs
  have hstep : step s = State.present { s with inbox := rest } a w := by simp only [step, hs, State.take]
  constructor
  · intro i hi
    simp only [hstep, State.present, hi, State.issue]
  · intro e he
    simp only [hstep, State.present, he, State.refuse, State.respond]

/-! ## Refusal (R90, R92, 60_exceptions.md R201) -/

theorem State.gate_answers (s : State) (agents : List Agent) (modes : List Mode) (go : State) :
    ∃ t, s.gate agents modes go = .next t := by
  unfold State.gate
  split <;> exact ⟨_, rfl⟩

/-- Every operation stands behind a gate, so it answers a next state (70_reset_and_hazards.md R232). -/
theorem exec_answers (i : Instr) (s : State) : ∃ t, exec i s = .next t := by
  cases i <;> exact State.gate_answers ..

/-- Settles O9: what is not refused is of its agent, in its mode and without a reserved operand
(`exec_cases`). -/
theorem refusedOperationsChangeNothing : Obligations.RefusedOperationsChangeNothing := by
  intro i s hbad
  obtain ⟨t, ht⟩ := exec_answers i s
  obtain rfl | ⟨hagent, hmode, hwf, -⟩ := exec_cases i s t ht
  · exact ht
  · simp [hagent, hmode, hwf] at hbad

end Sys2Proof.Machine
end

section
/-! PROOFS of the configuration family (40_configuration.md): the bits of the condition masks (R102 to R108),
the exact durations (R101, R103), and what `VALIDATE`, `BIND`, `CONFIGURE_DIVIDER` and `INIT` do (R102, R104,
R109 to R111). -/

namespace Sys2Proof.Machine

/-! ## The condition masks, bit by bit (R102, R105, R106, R108) -/

theorem validateMask_getLsbD (c : ConfigRegs) (i : Nat) : (validateMask c).getLsbD i = true ↔
    (i = 0 ∧ (c.latchPulseWidthNs.toNat < 20 ∨ 150 < c.latchPulseWidthNs.toNat)) ∨
    (i = 1 ∧ c.latchToClockDelayNs.toNat = 0) ∨
    (i = 2 ∧ c.clockDivider.toNat % 2 = 1) ∨
    (i = 3 ∧ c.clockDivider.toNat < 20) ∨
    (i = 4 ∧ c.fixedOverheadNs.toNat = 0) ∨
    (i = 5 ∧ c.baseClockMhz.toNat = 0) := by
  simp only [validateMask, BitVec.getLsbD_or, bitAt_getLsbD, Nat.reduceLT, Bool.or_eq_true, Bool.and_eq_true,
    decide_eq_true_eq, beq_iff_eq, or_assoc]

/-- The reserved bits of `CLOCK_MODE` are 0 exactly below 2 (10_state.md R24). -/
theorem clockMode_reserved_iff (w : Word) : w.extractLsb' 1 31 ≠ 0 ↔ 2 ≤ w.toNat := by
  have hlt := w.isLt
  rw [ne_eq, ← BitVec.toNat_inj, BitVec.extractLsb'_toNat, Nat.shiftRight_eq_div_pow,
    show (0 : BitVec 31).toNat = 0 from rfl]
  omega

theorem geometryMask_getLsbD (c : ConfigRegs) (i : Nat) : (geometryMask c).getLsbD i = true ↔
    (i = 6 ∧ (c.colorDepth.toNat < 1 ∨ 16 < c.colorDepth.toNat)) ∨
    (i = 7 ∧ (c.panelRows.toNat % 2 = 1 ∨ c.panelRows.toNat < 2 ∨ 65536 < c.panelRows.toNat)) ∨
    (i = 8 ∧ (c.rowPixels.toNat % 32 ≠ 0 ∨ c.rowPixels.toNat < 32 ∨ 65504 < c.rowPixels.toNat)) ∨
    (i = 9 ∧ c.onUnitNs.toNat = 0) ∨
    (i = 10 ∧ 2 ≤ c.clockMode.toNat) := by
  simp only [geometryMask, BitVec.getLsbD_or, bitAt_getLsbD, Nat.reduceLT, Bool.or_eq_true, Bool.and_eq_true,
    decide_eq_true_eq, beq_iff_eq, bne_iff_ne, or_assoc]

theorem clockPairMask_getLsbD (c : ConfigRegs) (i : Nat) : (clockPairMask c).getLsbD i = true ↔
    (i = 1 ∧ c.bound 2 = true ∧ c.bound 3 = true) ∨
    (i = 2 ∧ c.bound 2 = false ∧ c.bound 3 = false) ∨
    (i = 3 ∧ c.bound 2 ≠ c.bound 3 ∧ c.bound 3 ≠ c.clockAlt) := by
  simp only [clockPairMask, BitVec.getLsbD_or, bitAt_getLsbD, Nat.reduceLT, Bool.or_eq_true, Bool.and_eq_true,
    decide_eq_true_eq, Bool.not_eq_true', bne_iff_ne, or_assoc]

theorem distinctMask_getLsbD (c : ConfigRegs) (i : Nat) : (distinctMask c).getLsbD i = true ↔
    (i = 4 ∧ ∃ p q, 4 ≤ p ∧ p ≤ 9 ∧ 4 ≤ q ∧ q ≤ 9 ∧ p ≠ q ∧ c.bound p = true ∧ c.bound q = true ∧
      c.line p = c.line q) ∨
    (i = 5 ∧ ∃ p ∈ c.requiredRoles, ∃ q ∈ c.requiredRoles, p ≠ q ∧
      ¬ (4 ≤ p ∧ p ≤ 9 ∧ 4 ≤ q ∧ q ≤ 9) ∧ c.bound p = true ∧ c.bound q = true ∧ c.line p = c.line q) := by
  simp only [distinctMask, BitVec.getLsbD_or, bitAt_getLsbD, Nat.reduceLT, Bool.or_eq_true, Bool.and_eq_true,
    decide_eq_true_eq, List.any_eq_true, List.contains_iff_mem, Bool.not_eq_true', Bool.eq_false_iff, ne_eq,
    mem_colorRoles, sharedLine_iff, exists_and_left, and_assoc, @and_left_comm (¬ (_ ∧ _))]

theorem clockPairMask_high (c : ConfigRegs) : (clockPairMask c).extractLsb' 8 24 = 0 := by
  simp (disch := decide) only [clockPairMask, BitVec.extractLsb'_or, bitAt_high, BitVec.or_self]

theorem distinctMask_high (c : ConfigRegs) : (distinctMask c).extractLsb' 8 24 = 0 := by
  simp (disch := decide) only [distinctMask, BitVec.extractLsb'_or, bitAt_high, BitVec.or_self]

/-! ## Unbound roles in the masks (R104, R107) -/

/-- Bit 0 of the low byte stands for some unbound required role (R107). -/
theorem lowestUnbound_low (c : ConfigRegs) {i : Nat} (hi : i < 8) :
    ((lowestUnbound c).elim 0 unboundRole).getLsbD i = true ↔
      i = 0 ∧ ∃ r ∈ c.requiredRoles, c.bound r = false := by
  cases hr : lowestUnbound c with
  | none => simp +contextual [(lowestUnbound_eq_none c).1 hr]
  | some r =>
    obtain ⟨hmem, hunbound, -⟩ := (lowestUnbound_eq_some c r).1 hr
    have hex : ∃ r ∈ c.requiredRoles, c.bound r = false := ⟨r, hmem, hunbound⟩
    simp [unboundRole_low r i (c.requiredRoles_lt r hmem) hi, hex]

theorem bindingMask_low (c : ConfigRegs) {i : Nat} (hi : i < 8) : (bindingMask c).getLsbD i = true ↔
    (i = 0 ∧ ∃ r ∈ c.requiredRoles, c.bound r = false) ∨ (clockPairMask c).getLsbD i = true ∨
      (distinctMask c).getLsbD i = true := by
  rw [bindingMask, BitVec.getLsbD_or, BitVec.getLsbD_or, Bool.or_eq_true, Bool.or_eq_true, or_comm,
    lowestUnbound_low c hi]

theorem bindingMask_high (c : ConfigRegs) : (bindingMask c).extractLsb' 8 24 =
    ((lowestUnbound c).elim 0 unboundRole).extractLsb' 8 24 := by
  simp only [bindingMask, BitVec.extractLsb'_or, clockPairMask_high, distinctMask_high,
    BitVec.ofNat_eq_ofNat, BitVec.zero_or]

theorem bindingMask_high_bound (c : ConfigRegs) (h : ∀ r ∈ c.requiredRoles, c.bound r = true) :
    (bindingMask c).extractLsb' 8 24 = 0 := by
  rw [bindingMask_high, (lowestUnbound_eq_none c).2 h]
  rfl

theorem bindingMask_high_unbound (c : ConfigRegs) {r : Nat} (hr : lowestUnbound c = some r) :
    (bindingMask c).extractLsb' 8 24 = BitVec.ofNat 24 r := by
  rw [bindingMask_high, hr]
  exact unboundRole_high r (c.requiredRoles_lt r ((lowestUnbound_eq_some c r).1 hr).1)

theorem bindMask_low (c : ConfigRegs) {role i : Nat} (hr : role < 26) (hi : i < 8) :
    (bindMask c role).getLsbD i = true ↔
      (i = 0 ∧ c.bound role = false) ∨ (clockPairMask c).getLsbD i = true := by
  rw [bindMask, BitVec.getLsbD_or, Bool.or_eq_true, or_comm]
  cases hb : c.bound role <;> simp [unboundRole_low role i hr hi]

theorem bindMask_high (c : ConfigRegs) {role : Nat} (hr : role < 26) :
    (bindMask c role).extractLsb' 8 24 = if c.bound role then 0 else BitVec.ofNat 24 role := by
  simp only [bindMask, BitVec.extractLsb'_or, clockPairMask_high, BitVec.ofNat_eq_ofNat, BitVec.zero_or]
  split
  · rfl
  · exact unboundRole_high role hr

/-- Settles O20: the geometry mask's bits are its conditions, with the reserved bits of `CLOCK_MODE` read as
a bound on its value. -/
theorem geometryMaskBits : Obligations.GeometryMaskBits := by
  intro c i
  rw [geometryMask_getLsbD, clockMode_reserved_iff]

/-- Settles O21: the low byte collects the clock pair's bits, the shared lines and the unbound role; above it
stands the lowest unbound required role alone. -/
theorem bindingMaskBits : Obligations.BindingMaskBits := by
  intro c
  refine ⟨fun r => ?roles, fun i hi => ?low, bindingMask_high_bound c,
    fun r hmem hunbound hbelow =>
      bindingMask_high_unbound c ((lowestUnbound_eq_some c r).2 ⟨hmem, hunbound, hbelow⟩)⟩
  case roles => rw [c.mem_requiredRoles, c.eq_activeClockRole, or_assoc]; rfl
  case low =>
    rw [bindingMask_low c hi, clockPairMask_getLsbD, distinctMask_getLsbD, or_assoc, or_assoc]

/-! ## Durations (00_scope.md R7, R101, R103) -/

/-- R103: the slack `V·M` is positive exactly when `V` is. -/
theorem ConfigRegs.shiftTime_lt_budgetTu_iff (c : ConfigRegs) (h : 1 ≤ c.baseClockMhz.toNat) :
    32000 * c.clockDivider.toNat < c.budgetTu ↔ 1 ≤ c.fixedOverheadNs.toNat := by
  rw [c.budgetTu_of_pos h, Nat.lt_add_right_iff_pos, Nat.mul_pos_iff_of_pos_right h, Nat.succ_le_iff]

/-! ## The queries (R102, R104) -/

theorem exec_validate (s : State) (ha : s.agent = .host) : exec .validate s = .next { s with
    reply := if validateMask s.cfg = 0 then Reply.response .ok 0
      else Reply.response .configurationError (validateMask s.cfg) } := by
  refine (State.gate_open s _ _ _ (by simp [ha]) (mem_anyMode _)).trans ?_
  split <;> rfl

theorem exec_bind (role : BitVec 8) (s : State) (ha : s.agent = .host) (hr : role.toNat ≤ 25) :
    exec (.bind role) s = .next { s with
      reply := if bindMask s.cfg role.toNat = 0 then
          Reply.response .ok ((s.cfg.line role.toNat).setWidth 32)
        else Reply.response .bindingError (bindMask s.cfg role.toNat) } := by
  refine (State.gate_open s _ _ _ (by simp [ha]) (mem_anyMode _)).trans ?_
  rw [if_neg (by omega)]
  split <;> rfl

/-- Settles O17: the answer is the mask, whose bits are the failing conditions. -/
theorem validateReportsEveryFailingCondition : Obligations.ValidateReportsEveryFailingCondition :=
  fun s ha => ⟨validateMask s.cfg, exec_validate s ha, validateMask_getLsbD s.cfg⟩

/-- Settles O18: the durations are exact for `M ≥ 1`, so the budget's slack is `V·M`; at `V = 0` bit 4 of
the mask is set. -/
theorem budgetMustExceedTheShiftTime : Obligations.BudgetMustExceedTheShiftTime := by
  constructor
  · intro c h
    exact ⟨c.durationTu_of_pos _ h, c.durationTu_of_pos _ h, c.durationTu_of_pos _ h, c.durationTu_of_pos _ h,
      c.budgetTu_of_pos h, c.shiftTime_lt_budgetTu_iff h⟩
  · intro s ha hv
    have hbit : (validateMask s.cfg).getLsbD 4 = true :=
      (validateMask_getLsbD s.cfg 4).2 (by simp [hv])
    have hne : validateMask s.cfg ≠ 0 := fun h0 => by simp [h0] at hbit
    exact ⟨_, hbit, by rw [exec_validate s ha, if_neg hne]⟩

/-- Settles O19: a role with a register answers from `bindMask` and its line; a higher one is refused
(`refusedOperationsChangeNothing`). -/
theorem bindAnswersTheLineOrTheFaults : Obligations.BindAnswersTheLineOrTheFaults := by
  intro role s ha
  refine ⟨fun hr => refusedOperationsChangeNothing _ s (.inr (.inr ?_)), fun hr => ?_⟩
  · simpa [Instr.wellFormed] using hr
  · have hlt : role.toNat < 26 := by omega
    refine ⟨_, _, s.register_bind hlt, exec_bind role s ha hr, fun i hi => ?_, ?_⟩
    · rw [bindMask_low s.cfg hlt hi, clockPairMask_getLsbD]; rfl
    · rw [bindMask_high s.cfg hlt, BitVec.ofNat_toNat]; rfl

/-- Settles O24: the adapter passes the gate in every mode (log 5). -/
theorem configureDividerProgramsDivCfg : Obligations.ConfigureDividerProgramsDivCfg :=
  fun _ s ha => State.gate_open s _ _ _ (by simp [ha]) (mem_anyMode _)

/-! ## `INIT` (R110, R111) -/

/-- A binding mask of 0 shows no fault of the clock pair, no shared line and no unbound required role (R107). -/
theorem bindingMask_parts_of_eq_zero {c : ConfigRegs} (h : bindingMask c = 0) :
    clockPairMask c = 0 ∧ distinctMask c = 0 ∧ ∀ r ∈ c.requiredRoles, c.bound r = true := by
  obtain ⟨hmasks, hunbound⟩ := BitVec.or_eq_zero_iff.1 h
  obtain ⟨hpair, hdistinct⟩ := BitVec.or_eq_zero_iff.1 hmasks
  have hlow := mt (lowestUnbound_low c (i := 0) (by decide)).2 (by rw [hunbound]; decide)
  exact ⟨hpair, hdistinct, by simpa using hlow⟩

/-- With the active clock role bound and no fault of the clock pair the other clock role is unbound (R105). -/
theorem otherClockRole_unbound {c : ConfigRegs} (hpair : clockPairMask c = 0)
    (hactive : c.bound c.activeClockRole = true) : c.bound (5 - c.activeClockRole) = false := by
  have hboth : ¬ (c.bound 2 = true ∧ c.bound 3 = true) := fun hb => by
    have hbit := (clockPairMask_getLsbD c 1).2 (.inl ⟨rfl, hb⟩)
    simp [hpair] at hbit
  unfold ConfigRegs.activeClockRole at hactive ⊢
  split at hactive <;> simp_all

/-- Bound required roles have lines of their own when no two share one: colour roles by bit 4 of the mask,
any other pair by bit 5 (R106). -/
theorem lines_ne_of_distinctMask {c : ConfigRegs} (h : distinctMask c = 0)
    (hbound : ∀ r ∈ c.requiredRoles, c.bound r = true) :
    ∀ p ∈ c.requiredRoles, ∀ q ∈ c.requiredRoles, p ≠ q → c.line p ≠ c.line q := by
  intro p hp q hq hne hline
  have unset (i : Nat) := mt (distinctMask_getLsbD c i).2 (by simp [h])
  have hpb := hbound p hp
  have hqb := hbound q hq
  by_cases hcolor : 4 ≤ p ∧ p ≤ 9 ∧ 4 ≤ q ∧ q ≤ 9
  · obtain ⟨hp4, hp9, hq4, hq9⟩ := hcolor
    exact unset 4 (.inl ⟨rfl, p, q, hp4, hp9, hq4, hq9, hne, hpb, hqb, hline⟩)
  · exact unset 5 (.inr ⟨rfl, p, hp, q, hq, hne, hcolor, hpb, hqb, hline⟩)

/-- A configuration in which no check of `INIT` fails has the facts of R111: each range is a clear bit of
its mask. -/
theorem ConfigRegs.valid_of_masks {c : ConfigRegs} (hvalidate : validateMask c = 0)
    (hgeometry : geometryMask c = 0) (hbinding : bindingMask c = 0) : c.Valid := by
  have timing (i : Nat) := mt (validateMask_getLsbD c i).2 (by simp [hvalidate])
  have geometry (i : Nat) := mt (geometryMask_getLsbD c i).2 (by simp [hgeometry])
  obtain ⟨hpair, hdistinct, hbound⟩ := bindingMask_parts_of_eq_zero hbinding
  have hactive := hbound c.activeClockRole (by simp [c.mem_requiredRoles])
  exact {
    latchWidth := by have := timing 0; omega
    latchDelay := by have := timing 1; omega
    divider := by have := timing 2; have := timing 3; omega
    baseClock := by have := timing 5; omega
    overhead := by have := timing 4; omega
    depth := by have := geometry 6; omega
    rows := by have := geometry 7; omega
    columns := by have := geometry 8; omega
    onTime := by have := geometry 9; omega
    clockMode := by have := geometry 10; omega
    clock := ⟨hactive, otherClockRole_unbound hpair hactive⟩
    bound := hbound
    distinct := lines_ne_of_distinctMask hdistinct hbound }

theorem exec_init (s : State) (ha : s.agent = .host) (hm : s.mode = .reset) : exec .init s = .next (
    if validateMask s.cfg ||| geometryMask s.cfg ≠ 0 then
      (s.fatalEntry .configuration (validateMask s.cfg ||| geometryMask s.cfg)).respond .configurationError
        (validateMask s.cfg ||| geometryMask s.cfg)
    else if bindingMask s.cfg ≠ 0 then
      (s.fatalEntry .binding (bindingMask s.cfg)).respond .bindingError (bindingMask s.cfg)
    else s.configure.respond .ok 0) :=
  State.gate_open s _ _ _ (by simp [ha]) (by simp [hm])

/-- Settles O25: the two fatal entries of a startup error, and the configured state with its frame buffer. -/
theorem initConfiguresOrFaults : Obligations.InitConfiguresOrFaults := by
  intro s ha hm he
  rw [exec_init s ha hm]
  refine ⟨fun hconfig => ?_, fun hconfig hbinding => ?_, fun hconfig hbinding => ?_⟩
  · rw [if_pos hconfig, s.fatalEntry_configuration _ he]
    rfl
  · rw [if_neg (not_not.2 hconfig), if_pos hbinding, s.fatalEntry_binding _ he]
    rfl
  · rw [if_neg (not_not.2 hconfig), if_neg (not_not.2 hbinding)]
    have hshape : s.configure.fb.shape = s.cfg.shape := s.fb.takeShape_shape _
    refine ⟨_, rfl, rfl, congrArg Shape.rows hshape, congrArg Shape.cols hshape, congrArg Shape.depth hshape,
      fun h => if_pos (h.trans hshape), fun h => ?_⟩
    have hforget : s.configure.fb = s.fb.forget s.cfg.shape := if_neg (hshape ▸ h)
    exact ⟨congrArg FrameBuffer.cells hforget, congrArg FrameBuffer.epoch hforget⟩

/-- Settles O26: of the outcomes of `INIT` only the one past all checks ends in `Configured`. -/
theorem successfulInitEstablishesValidity : Obligations.SuccessfulInitEstablishesValidity := by
  intro s t ha hm h ht
  obtain rfl | ⟨-, -, -, heffect⟩ := exec_cases .init s t h
  · simp [hm] at ht
  obtain ⟨e, m, st, -, rfl⟩ | ⟨hconfig, hbinding, rfl⟩ := heffect
  · simp at ht
  · obtain ⟨hvalidate, hgeometry⟩ := BitVec.or_eq_zero_iff.1 hconfig
    exact ⟨rfl, ConfigRegs.valid_of_masks hvalidate hgeometry hbinding, rfl⟩

end Sys2Proof.Machine
end

section
/-! PROOFS of the scheduler family (41_scheduler.md): each of the five operations in its place (R127 to R133),
what a step can do to the FSM and to the active buffer (R120, R127, R163), and the weighted round-robin (R122 to
R126, R134). -/

namespace Sys2Proof.Machine

/-! ## Which operation a step takes (R120, log 4) -/

theorem step_inbox_nil (s : State) (h : s.inbox = []) : step s = s.runFreely := by simp only [step, h]

/-- Settles O5: with an empty inbox the mode decides whether the block waits, and the FSM state which operation
the Scheduler takes. -/
theorem stepRunsTheSchedulerOrWaits : Obligations.StepRunsTheSchedulerOrWaits := by
  refine ⟨fun s hi hm => ?_, fun s hi hm => ?_, fun s e rest hi => by simp only [step, hi, State.take]⟩
  · have hop (f : FsmState) (hf : s.fsm = f) := step_scheduler s f hi hm hf
    exact ⟨hop .idle, hop .selectPlane, hop .shifting, hop .latching, hop .blanking⟩
  · rw [step_inbox_nil s hi, State.runFreely, if_neg hm]

/-! ## The swap at a frame boundary (R127) -/

theorem Pos.eq_origin_iff (p : Pos) : p = Pos.origin ↔ p.row = 0 ∧ p.tick = 0 ∧ p.plane = 0 := by
  cases p
  simp [Pos.origin]

/-- Of the whole state the swap concerns `ACTIVE_BUF` and `SWAP_PENDING`. -/
theorem State.applySwapIfBoundary_eq (s : State) : s.applySwapIfBoundary = { s with
    activeBuf := if s.pos = Pos.origin ∧ s.swapPending = true then !s.activeBuf else s.activeBuf
    swapPending := if s.pos = Pos.origin then false else s.swapPending } := by
  unfold State.applySwapIfBoundary
  by_cases h : s.pos = Pos.origin ∧ s.swapPending = true
  · rw [if_pos h, if_pos h, if_pos h.1]
  · have hpend : (if s.pos = Pos.origin then false else s.swapPending) = s.swapPending :=
      ite_eq_right_iff.2 fun hpos => by simpa [hpos] using h
    rw [if_neg h, if_neg h, hpend]

/-! ## The operations in their places (R128 to R133) -/

section
variable (s : State) (ha : s.agent = .scheduler) (hm : s.mode = .running)
include ha hm

theorem exec_tick (hf : s.fsm = .idle) : exec .tick s = .next (
    if s.shutdownReq then (State.stop { s with bus := s.bus.advance s.env.gap }).quiet
    else (State.applySwapIfBoundary { s with bus := s.bus.advance s.env.gap }).beginCycle.quiet) :=
  State.stepGate_open s .idle _ ha hm hf

theorem exec_select (hf : s.fsm = .selectPlane) (hr : s.env.ready = true) :
    exec .select s = .next (State.quiet { s with
      rowbuf := { s.rowbuf with words := s.fb.rowPlane s.cfg s.activeBuf s.curRow.toNat s.curPlane.toNat }
      bus := s.bus.blankThenAddress s.cfg.addressLines s.curRow
      fsm := .shifting }) :=
  (State.stepGate_open s .selectPlane _ ha hm hf).trans (by rw [if_pos hr])

theorem exec_shiftDone (hf : s.fsm = .shifting) (hb : s.trainBusy = false) {c : Bus}
    (hc : s.bus.pulseTrain s.trainTiming s.rowbuf.word s.env.stallOf s.cfg.rowPixels.toNat = .complete c) :
    exec .shiftDone s = .next (State.quiet { s with bus := c, fsm := .latching }) :=
  (State.stepGate_open s .shifting _ ha hm hf).trans
    (congrArg _ (State.pulseTrain_complete s _ _ _ c hb hc))

theorem exec_blankDone (hf : s.fsm = .blanking) : exec .blankDone s = .next (State.quiet { s with
    bus := s.bus.onTimeThenBlank s.cfg.onTimeTu
    lastResult := .complete
    pos := s.pos.succ s.cfg.rowAddresses s.cfg.colorDepth.toNat
    fsm := .idle
    mode := if s.shutdownReq then .stopped else .running
    shutdownReq := false }) := by
  refine (State.stepGate_open s .blanking _ ha hm hf).trans (congrArg _ ?_)
  cases hr : s.shutdownReq with
  | true => rfl
  | false =>
    -- In `Running` without a request these two fields stay as they are.
    have hs : s = { s with mode := .running, shutdownReq := false } := by rw [← hm, ← hr]
    rw [hs]
    rfl

end

/-- Settles O27: after the gap a requested shutdown stops the loop; else the swap, then the pair of `POS`. -/
theorem tickStopsOrStartsACycle : Obligations.TickStopsOrStartsACycle := by
  intro s ha hm hf
  rw [exec_tick s ha hm hf]
  refine ⟨fun hr => by rw [if_pos hr]; rfl, fun hr => ?_⟩
  rw [if_neg (by simp [hr]), State.applySwapIfBoundary_eq]
  simp only [Pos.eq_origin_iff, and_assoc]
  rfl

/-! ## What the phases leave on the bus (42_sequencer.md R141, R152) -/

theorem Bus.blankThenAddress_eq (b : Bus) (lines : Nat) (row : BitVec 16) :
    b.blankThenAddress lines row = { b with
      oe := false
      addr := (b.blankThenAddress lines row).addr
      wave := (b.blankThenAddress lines row).wave } := by
  calc b.blankThenAddress lines row = { b.blankThenAddress lines row with oe := false } := by
        rw [← b.blankThenAddress_oe lines row]
    _ = _ := by simp

/-- With the output already off, the trace gains the address bits that change, ascending. -/
theorem Bus.blankThenAddress_wave (b : Bus) (lines : Nat) (row : BitVec 16) (hp : b.pinsActive = true)
    (ho : b.oe = false) : (b.blankThenAddress lines row).wave =
      (((addrLines lines).filter fun i : Fin 16 => b.addr.getLsbD (i : Nat) != row.getLsbD (i : Nat)).map
        fun i : Fin 16 => { time := b.now, line := .addr i, value := row.getLsbD (i : Nat) : Event }).reverse
        ++ b.wave := by
  rw [Bus.blankThenAddress, Bus.drive_same b .oe false ho]
  exact Bus.foldl_drive_addr_wave b row _ (Bus.addrLines_nodup lines) hp

/-- With the output on, its fall at the end of the on-time is recorded. -/
theorem Bus.onTimeThenBlank_eq (b : Bus) (u : Nat) (hp : b.pinsActive = true) (ho : b.oe = true) :
    b.onTimeThenBlank u = { b with
      oe := false
      now := b.now + u
      wave := { time := b.now + u, line := .oe, value := false } :: b.wave } := by
  have hwave : (b.onTimeThenBlank u).wave = { time := b.now + u, line := .oe, value := false } :: b.wave := by
    simpa [Bus.Records, hp, ho, driveEvent] using b.onTimeThenBlank_records u
  calc b.onTimeThenBlank u = { b.onTimeThenBlank u with wave := (b.onTimeThenBlank u).wave } := rfl
    _ = _ := by rw [hwave]; simp

/-- Settles O28: the row buffer is the row plane of the active buffer, read bit by bit in the buffer's grid, and
phase 1 sets the address. -/
theorem selectTakesTheRowAndSetsTheAddress : Obligations.SelectTakesTheRowAndSetsTheAddress := by
  intro s ha hm hf hr
  refine ⟨_, exec_select s ha hm hf hr, rfl, s.fb.rowPlane_length .., fun hgrid x hx => ?_,
    s.bus.blankThenAddress_eq .., s.bus.blankThenAddress_bit _ _, s.bus.blankThenAddress_wave _ _⟩
  intro value i
  rw [State.quiet_rowbuf, RowBuf.word_rowPlane _ _ _ _ _ _ _ hx, FrameBuffer.columnWord_grid _ _ _ _ _ _ hgrid]
  exact s.fb.pixelWord_getLsbD ..

/-- Settles O30: a train within the slack completes, with the events of `pulseTrain_complete_eq`. -/
theorem shiftDoneCompletesWithinBudget : Obligations.ShiftDoneCompletesWithinBudget := by
  intro s ha hm hf hb hs
  obtain ⟨c, hc⟩ := s.bus.pulseTrain_completes s.trainTiming s.rowbuf.word s.env.stallOf _ hs
  have hbus := Bus.pulseTrain_complete_eq _ _ _ _ _ _ hc
  obtain ⟨-, -, -, -, -, -, hrising, -⟩ := Bus.transfers_complete _ _ _ _ _ 0 _ _ (by omega) hc
  have hpixel : 2 * s.trainTiming.half = 1000 * s.divCfg.toNat := by
    rw [State.trainTiming, halfPeriodTu, ← Nat.mul_assoc]
  rw [hpixel] at hbus
  exact ⟨_, exec_shiftDone s ha hm hf hb hc, rfl, hbus, by simpa using hrising⟩

/-- Settles O33: the on-time is `U·M` for `M ≥ 1` (log 25), and its end completes the cycle. -/
theorem blankDoneCompletesTheCycle : Obligations.BlankDoneCompletesTheCycle := by
  intro s ha hm hf hp ho off
  refine ⟨fun hM => congrArg _ (s.cfg.durationTu_of_pos s.cfg.onUnitNs hM), ?_⟩
  rw [exec_blankDone s ha hm hf, s.bus.onTimeThenBlank_eq _ hp ho]
  rfl

/-! ## What a step can do to the FSM and to the active buffer (R120, R127) -/

/-- A step performs no operation, or is the hardware reset, or executes an operation for some agent; the host's
`RESET` is a reset that was next. -/
theorem step_operation {s t : State} (h : step s = .next t) :
    (∃ env inbox agent reply, t = { s with env := env, inbox := inbox, agent := agent, reply := reply }) ∨
    (s.nextIsReset ∧ ∃ rest, t = State.hardwareReset { s with inbox := rest }) ∨
    ∃ i inbox agent, exec i { s with inbox := inbox, agent := agent } = .next t ∧
      (i = .reset → agent = .host → s.nextIsReset) := by
  obtain ⟨-, -, hx⟩ | ⟨-, -, rfl⟩ | ⟨rest, a, w, i, hi, hd, hx⟩ | ⟨rest, a, w, e, -, -, rfl⟩ |
    ⟨rest, e, -, rfl⟩ | ⟨rest, hi, rfl⟩ := step_cases s t h
  · exact .inr (.inr ⟨_, s.inbox, .scheduler, hx, nofun⟩)
  · exact .inl ⟨_, _, _, _, rfl⟩
  · refine .inr (.inr ⟨i, rest, a, hx, ?_⟩)
    rintro rfl rfl
    exact .inr ⟨w, by rw [hi]; rfl, hd⟩
  · exact .inl ⟨_, _, _, _, rfl⟩
  · exact .inl ⟨_, _, _, _, rfl⟩
  · exact .inr (.inl ⟨.inl (by rw [hi]; rfl), rest, rfl⟩)

/-- The six transitions of R120 in `Running`, each with its condition and the result it leaves. -/
def State.Transition (s t : State) : Prop :=
  s.mode = .running ∧
    ((s.fsm = .idle ∧ t.fsm = .selectPlane) ∨
     (s.fsm = .selectPlane ∧ t.fsm = .shifting ∧ s.env.ready = true) ∨
     (s.fsm = .selectPlane ∧ t.fsm = .idle ∧ s.env.ready = false ∧ t.lastResult = .skipped) ∨
     (s.fsm = .shifting ∧ t.fsm = .latching) ∨
     (s.fsm = .latching ∧ t.fsm = .blanking) ∨
     (s.fsm = .blanking ∧ t.fsm = .idle ∧ t.lastResult = .complete))

/-- The FSM after an operation: where it was, along a transition, or in Idle by a fatal error or `RESET`. -/
theorem exec_fsm {i : Instr} {s t : State} (h : exec i s = .next t) :
    t.fsm = s.fsm ∨ s.Transition t ∨
      (t.fsm = .idle ∧ (t.mode = .faulted ∨ (i = .reset ∧ s.agent = .host))) := by
  cases exec_outcomes i s t h
  case tickSwap hm hf hr hp hs | tick hm hf hr => exact .inr (.inl ⟨hm, .inl ⟨hf, rfl⟩⟩)
  case select hm hf hr => exact .inr (.inl ⟨hm, .inr (.inl ⟨hf, rfl, hr⟩)⟩)
  case skip hm hf hr => exact .inr (.inl ⟨hm, .inr (.inr (.inl ⟨hf, rfl, hr, rfl⟩))⟩)
  case shiftDone hm hf hb hc => exact .inr (.inl ⟨hm, .inr (.inr (.inr (.inl ⟨hf, rfl⟩)))⟩)
  case latchDone hm hf => exact .inr (.inl ⟨hm, .inr (.inr (.inr (.inr (.inl ⟨hf, rfl⟩))))⟩)
  case blankDone hm hf hr | blankStop hm hf hr =>
    exact .inr (.inl ⟨hm, .inr (.inr (.inr (.inr (.inr ⟨hf, rfl, rfl⟩))))⟩)
  case initFails | overrun | overlap | emitOverlap | emitOverrun | trainOverrun | trainOverlap =>
    exact .inr (.inr ⟨rfl, .inl rfl⟩)
  case reset ha hm => exact .inr (.inr ⟨rfl, .inr ⟨rfl, ha⟩⟩)
  all_goals exact .inl rfl

/-- Settles O34: what is no operation leaves the FSM alone or is a reset; an operation does as `exec_fsm`
says. -/
theorem fsmChangesOnlyByItsTransitions : Obligations.FsmChangesOnlyByItsTransitions := by
  intro s t h hne
  obtain ⟨_, _, _, _, rfl⟩ | ⟨hreset, _, rfl⟩ | ⟨i, inbox, agent, hx, hreset⟩ := step_operation h
  · exact absurd rfl hne
  · exact .inr ⟨rfl, .inr hreset⟩
  · obtain hsame | htransition | ⟨hidle, hfault | ⟨hi, ha⟩⟩ := exec_fsm hx
    · exact absurd hsame hne
    · exact .inl htransition
    · exact .inr ⟨hidle, .inl hfault⟩
    · exact .inr ⟨hidle, .inr (hreset hi ha)⟩

/-- The active buffer after an operation: the one it was, the flip of a `TICK` at the frame boundary, or the
reset value. -/
theorem exec_activeBuf {i : Instr} {s t : State} (h : exec i s = .next t) :
    t.activeBuf = s.activeBuf ∨
    (s.mode = .running ∧ s.fsm = .idle ∧ s.pos = Pos.origin ∧ s.swapPending = true ∧
      s.shutdownReq = false ∧ t.activeBuf = !s.activeBuf ∧ t.swapPending = false ∧ t.fsm = .selectPlane) ∨
    (i = .reset ∧ s.agent = .host) := by
  cases exec_outcomes i s t h
  case tickSwap hm hf hr hp hs => exact .inr (.inl ⟨hm, hf, hp, hs, hr, rfl, rfl, rfl⟩)
  case reset ha hm => exact .inr (.inr ⟨rfl, ha⟩)
  all_goals exact .inl (by simp)

/-- Settles O35: what is no operation leaves the active buffer alone or is a reset; an operation does as
`exec_activeBuf` says. -/
theorem swapOnlyAtAFrameBoundary : Obligations.SwapOnlyAtAFrameBoundary := by
  intro s t h hne
  obtain ⟨_, _, _, _, rfl⟩ | ⟨hreset, -⟩ | ⟨i, inbox, agent, hx, hreset⟩ := step_operation h
  · exact absurd rfl hne
  · exact .inl hreset
  · obtain hsame | hswap | ⟨hi, ha⟩ := exec_activeBuf hx
    · exact absurd hsame hne
    · exact .inr hswap
    · exact .inl (hreset hi ha)

/-! ## The slots of a row-scan period (R122 to R124) -/

theorem planeDue_iff (depth p t : Nat) : planeDue depth p t = true ↔ t % 2 ^ (depth - 1 - p) = 0 := beq_iff_eq

/-- The planes due at a tick are those from the first one on (R123). -/
theorem planeDue_iff_firstPlane_le {depth p : Nat} (t : Nat) (hp : p < depth) :
    planeDue depth p t = true ↔ firstPlane depth t ≤ p :=
  (planeDue_iff depth p t).trans (firstPlane_le_iff depth p t hp).symm

/-- Settles O36: a plane's stride divides the tick exactly from the first plane on. -/
theorem planesAreDueFromTheFirstOn : Obligations.PlanesAreDueFromTheFirstOn :=
  fun depth p t _ hp _ => ⟨planeDue_iff depth p t, planeDue_iff_firstPlane_le t hp⟩

theorem lt_of_mem_slots {depth p : Nat} (h : p ∈ slots depth) : p < depth := by
  obtain ⟨t, -, ht⟩ := List.mem_flatMap.1 h
  rw [planesAt, List.mem_range'_1] at ht
  omega

/-- A plane stands at most once in a tick, exactly when it is due (R123, R124). -/
theorem count_planesAt {depth p : Nat} (t : Nat) (hp : p < depth) :
    (planesAt depth t).count p = if t % 2 ^ (depth - 1 - p) = 0 then 1 else 0 := by
  rw [(planesAt_nodup depth t).count]
  simp only [mem_planesAt depth t p (by omega), hp, and_true, firstPlane_le_iff depth p t hp]

/-- A plane stands in the ticks that are multiples of its stride (R122). -/
theorem count_slots {depth p : Nat} (hp : p < depth) : (slots depth).count p = 2 ^ p := by
  have hticks : ticksPerRow depth = 2 ^ (depth - 1 - p) * 2 ^ p := by
    rw [ticksPerRow, ← Nat.pow_add]
    congr 1
    omega
  rw [slots, List.count_flatMap, hticks]
  exact (congrArg List.sum (List.map_congr_left fun t _ => count_planesAt t hp)).trans
    (sum_multiples _ _ Nat.one_le_two_pow)

/-- The slots of all planes together: `1 + 2 + … + 2^(N−1)` (R122). -/
theorem slots_length (depth : Nat) : (slots depth).length = 2 ^ depth - 1 := by
  have hcard := Multiset.sum_count_eq_card (s := Finset.range depth) (m := (slots depth : Multiset Nat))
    fun p hp => Finset.mem_range.2 (lt_of_mem_slots (Multiset.mem_coe.1 hp))
  simp only [Multiset.coe_count, Multiset.coe_card] at hcard
  rw [← hcard, Finset.sum_congr rfl fun p hp => count_slots (Finset.mem_range.1 hp),
    Nat.geomSum_eq (Nat.le_refl 2), Nat.div_one]

/-- Settles O37: every plane is counted by its due ticks, and the slots are the planes' visits. -/
theorem planeIsVisitedTwoToItsIndexTimes : Obligations.PlaneIsVisitedTwoToItsIndexTimes :=
  fun depth _ => ⟨slots_length depth, fun _ => lt_of_mem_slots, fun _ => count_slots⟩

/-! ## One successor (R126) -/

theorem ticksPerRow_le {depth : Nat} (h : depth ≤ 16) : ticksPerRow depth ≤ 2 ^ 15 :=
  Nat.pow_le_pow_right (by omega) (by omega)

theorem Pos.Valid.depth_pos {rows depth : Nat} {p : Pos} (h : p.Valid rows depth) : 1 ≤ depth :=
  Nat.one_le_of_lt h.plane

/-- The first slot of a tick of a row address. -/
def Pos.firstAt (depth row tick : Nat) : Pos where
  row := BitVec.ofNat 16 row
  tick := BitVec.ofNat 16 tick
  plane := BitVec.ofNat 4 (firstPlane depth tick)

theorem Pos.firstAt_row (depth tick : Nat) {row : Nat} (h : row < 65536) :
    (Pos.firstAt depth row tick).row.toNat = row := Nat.mod_eq_of_lt h

theorem Pos.firstAt_tick {depth tick : Nat} (row : Nat) (hdepth : depth ≤ 16) (h : tick < ticksPerRow depth) :
    (Pos.firstAt depth row tick).tick.toNat = tick :=
  Nat.mod_eq_of_lt (h.trans_le ((ticksPerRow_le hdepth).trans (by decide)))

theorem Pos.firstAt_plane {depth : Nat} (row tick : Nat) (hd : 1 ≤ depth) (hdepth : depth ≤ 16) :
    (Pos.firstAt depth row tick).plane.toNat = firstPlane depth tick :=
  Nat.mod_eq_of_lt ((firstPlane_lt depth tick hd).trans_le hdepth)

/-- It is a schedule position. -/
theorem Pos.firstAt_valid {rows depth row tick : Nat} (hrows : rows ≤ 65536) (hd : 1 ≤ depth)
    (hdepth : depth ≤ 16) (hrow : row < rows) (htick : tick < ticksPerRow depth) :
    (Pos.firstAt depth row tick).Valid rows depth where
  row := by rwa [Pos.firstAt_row depth tick (hrow.trans_le hrows)]
  tick := by rwa [Pos.firstAt_tick row hdepth htick]
  plane := by rw [Pos.firstAt_plane row tick hd hdepth]; exact firstPlane_lt depth tick hd
  due := by
    rw [Pos.firstAt_plane row tick hd hdepth, Pos.firstAt_tick row hdepth htick]
    exact (planeDue_iff_firstPlane_le tick (firstPlane_lt depth tick hd)).2 (Nat.le_refl _)

/-- After the last plane of a tick the successor is the first slot of the next one. -/
theorem Pos.succ_lastPlane (rows : Nat) {depth : Nat} {p : Pos} (h : depth ≤ p.plane.toNat + 1) :
    p.succ rows depth = Pos.firstAt depth
      (if (p.tick.toNat + 1) % ticksPerRow depth = 0 then (p.row.toNat + 1) % rows else p.row.toNat)
      ((p.tick.toNat + 1) % ticksPerRow depth) := by
  rw [Pos.succ, if_neg (Nat.not_lt.2 h)]
  rfl

/-- Settles O38: the next plane of the tick is due with the one before it, and past the last plane the successor
is the first slot of a tick. -/
theorem successorKeepsPositionsValid : Obligations.SuccessorKeepsPositionsValid := by
  intro rows depth p hrows hdepth h
  by_cases hplane : p.plane.toNat + 1 < depth
  · have hnat : (p.plane + 1).toNat = p.plane.toNat + 1 := by bv_omega
    have hdue := (planeDue_iff_firstPlane_le _ h.plane).1 h.due
    rw [p.succ_plane rows depth hplane]
    refine ⟨h.row, h.tick, hnat.trans_lt hplane, ?_⟩
    rw [hnat]
    exact (planeDue_iff_firstPlane_le _ hplane).2 (Nat.le_succ_of_le hdue)
  · have hrowsPos : 0 < rows := Nat.zero_lt_of_lt h.row
    rw [Pos.succ_lastPlane rows (Nat.not_lt.1 hplane)]
    refine Pos.firstAt_valid hrows h.depth_pos hdepth ?_ (Nat.mod_lt _ (Nat.two_pow_pos _))
    split
    · exact Nat.mod_lt _ hrowsPos
    · exact h.row

/-! ## The walk through the schedule (R125, R126) -/

/-- From `p` the successor meets the pairs (row, plane) of the list, and then stands at the last position. -/
inductive Walk (rows depth : Nat) : Pos → List (Nat × Nat) → Pos → Prop where
  | nil (p : Pos) : Walk rows depth p [] p
  | cons {p q : Pos} {pairs : List (Nat × Nat)} (h : Walk rows depth (p.succ rows depth) pairs q) :
      Walk rows depth p ((p.row.toNat, p.plane.toNat) :: pairs) q

section
variable {rows depth : Nat}

/-- A walk, said in applications of the successor. -/
theorem Walk.iterate {p q : Pos} {pairs : List (Nat × Nat)} (h : Walk rows depth p pairs q) :
    (Pos.succ rows depth)^[pairs.length] p = q ∧
    ((List.range pairs.length).map fun k => (((Pos.succ rows depth)^[k] p).row.toNat,
      ((Pos.succ rows depth)^[k] p).plane.toNat)) = pairs := by
  induction h with
  | nil p => exact ⟨rfl, rfl⟩
  | cons h ih =>
    refine ⟨ih.1, ?_⟩
    rw [List.length_cons, List.range_succ_eq_map, List.map_cons, List.map_map]
    exact congrArg _ ih.2

theorem Walk.append {p q r : Pos} {ps qs : List (Nat × Nat)} (h : Walk rows depth p ps q)
    (g : Walk rows depth q qs r) : Walk rows depth p (ps ++ qs) r := by
  induction h with
  | nil => exact g
  | cons _ ih => exact .cons (ih g)

/-- Walks that join up, one after the other. -/
theorem Walk.flatMap (pos : Nat → Pos) (pairs : Nat → List (Nat × Nat)) (n : Nat)
    (h : ∀ i < n, Walk rows depth (pos i) (pairs i) (pos (i + 1))) :
    Walk rows depth (pos 0) ((List.range n).flatMap pairs) (pos n) := by
  induction n with
  | zero => exact .nil _
  | succ n ih =>
    rw [List.range_succ, List.flatMap_append, List.flatMap_singleton]
    exact (ih fun i hi => h i (by omega)).append (h n (by omega))

/-- The first slot of tick `g`, the ticks counted from the frame boundary through all rows. -/
def tickStart (rows depth g : Nat) : Pos :=
  Pos.firstAt depth (g / ticksPerRow depth % rows) (g % ticksPerRow depth)

theorem tickStart_row (hpos : 1 ≤ rows) (hrows : rows ≤ 65536) (g : Nat) :
    (tickStart rows depth g).row.toNat = g / ticksPerRow depth % rows :=
  Pos.firstAt_row _ _ ((Nat.mod_lt _ hpos).trans_le hrows)

theorem tickStart_tick (hdepth : depth ≤ 16) (g : Nat) :
    (tickStart rows depth g).tick.toNat = g % ticksPerRow depth :=
  Pos.firstAt_tick _ hdepth (Nat.mod_lt _ (Nat.two_pow_pos _))

/-- After the last plane of tick `g`, the next tick. -/
theorem succ_tickStart {g : Nat} {p : Pos} (hrow : p.row.toNat = g / ticksPerRow depth % rows)
    (htick : p.tick.toNat = g % ticksPerRow depth) (hplane : p.plane.toNat + 1 = depth) :
    p.succ rows depth = tickStart rows depth (g + 1) := by
  rw [Pos.succ_lastPlane rows hplane.ge, hrow, htick, tickStart, Nat.mod_add_mod, Nat.mod_add_mod, Nat.succ_div]
  simp only [Nat.dvd_iff_mod_eq_zero]
  split <;> rfl

/-- From a plane of tick `g` on: that plane and those after it, ascending, and then the next tick (R124). -/
theorem walk_planes (hdepth : depth ≤ 16) {g : Nat} (m : Nat) {p : Pos}
    (hrow : p.row.toNat = g / ticksPerRow depth % rows) (htick : p.tick.toNat = g % ticksPerRow depth)
    (hm : p.plane.toNat + (m + 1) = depth) :
    Walk rows depth p ((List.range' p.plane.toNat (m + 1)).map fun k => (p.row.toNat, k))
      (tickStart rows depth (g + 1)) := by
  induction m generalizing p with
  | zero =>
    rw [← succ_tickStart hrow htick hm]
    exact .cons (.nil _)
  | succ m ih =>
    have hnext : (p.plane + 1).toNat = p.plane.toNat + 1 := by bv_omega
    refine .cons ?_
    rw [Pos.succ_plane rows depth p (by omega), ← hnext]
    exact ih hrow htick (by rw [hnext]; omega)

section
variable (hpos : 1 ≤ rows) (hrows : rows ≤ 65536) (hd : 1 ≤ depth) (hdepth : depth ≤ 16)
include hpos hrows hd hdepth

/-- A tick: its planes in ascending order. -/
theorem walk_tick (g : Nat) : Walk rows depth (tickStart rows depth g)
    ((planesAt depth (g % ticksPerRow depth)).map fun p => (g / ticksPerRow depth % rows, p))
    (tickStart rows depth (g + 1)) := by
  have hfirst := firstPlane_lt depth (g % ticksPerRow depth) hd
  have hplane : (tickStart rows depth g).plane.toNat = firstPlane depth (g % ticksPerRow depth) :=
    Pos.firstAt_plane _ _ hd hdepth
  obtain ⟨m, hm⟩ : ∃ m, depth - firstPlane depth (g % ticksPerRow depth) = m + 1 :=
    Nat.exists_eq_succ_of_ne_zero (by omega)
  have h := walk_planes hdepth m (tickStart_row hpos hrows g) (tickStart_tick hdepth g) (by omega)
  rwa [hplane, tickStart_row hpos hrows, ← hm] at h

/-- A row address: its slots (R124, R125). -/
theorem walk_row {row : Nat} (hrow : row < rows) :
    Walk rows depth (tickStart rows depth (row * ticksPerRow depth)) ((slots depth).map fun p => (row, p))
      (tickStart rows depth ((row + 1) * ticksPerRow depth)) := by
  rw [slots, List.map_flatMap, Nat.succ_mul]
  refine Walk.flatMap (fun tick => tickStart rows depth (row * ticksPerRow depth + tick)) _ _ fun tick ht => ?_
  have h := walk_tick hpos hrows hd hdepth (row * ticksPerRow depth + tick)
  have hmod : (row * ticksPerRow depth + tick) % ticksPerRow depth = tick := by
    rw [Nat.mul_add_mod', Nat.mod_eq_of_lt ht]
  have hdiv : (row * ticksPerRow depth + tick) / ticksPerRow depth % rows = row := by
    rw [Nat.mul_comm, Nat.mul_add_div (Nat.zero_lt_of_lt ht), Nat.div_eq_of_lt ht, Nat.add_zero,
      Nat.mod_eq_of_lt hrow]
  rwa [hmod, hdiv] at h

end

/-- Every number of whole scans of all rows ends where it began (R126, R134). -/
theorem tickStart_scans (n : Nat) : tickStart rows depth (n * rows * ticksPerRow depth) = Pos.origin := by
  simp [tickStart, Pos.firstAt, Pos.origin, firstPlane, ticksPerRow]

end

/-- Settles O39: the walk through the rows, each with its slots, said in applications of the successor. -/
theorem scheduleIsRowMajorAndReturns : Obligations.ScheduleIsRowMajorAndReturns := by
  intro rows depth hpos hrows hd hdepth
  have hwalk : Walk rows depth Pos.origin
      ((List.range rows).flatMap fun r => (slots depth).map fun p => (r, p)) Pos.origin := by
    have h := Walk.flatMap (fun row => tickStart rows depth (row * ticksPerRow depth)) _ rows
      fun row hrow => walk_row hpos (by omega) hd hdepth hrow
    have hstart := tickStart_scans (rows := rows) (depth := depth) 0
    have hend := tickStart_scans (rows := rows) (depth := depth) 1
    rw [Nat.zero_mul] at hstart
    rw [Nat.one_mul] at hend
    rwa [hstart, hend] at h
  have hlength : ((List.range rows).flatMap fun r => (slots depth).map fun p => (r, p)).length =
      rows * (2 ^ depth - 1) := by
    simp [List.length_flatMap, slots_length]
  have h := hwalk.iterate
  rwa [hlength] at h

end Sys2Proof.Machine
end

section
/-! PROOFS of the sequencer family (42_sequencer.md): every step of a run keeps the invariant (R154, R232); the
latch pulse (R150), the trains and cycles asked for on their own (R140 to R153), an overrun (R146, R192), and
five steps that are one cycle (R155). -/

namespace Sys2Proof.Machine

/-! ## The lines between two steps of a run (R142, R148, R150, R154) -/

/-- The lines are driven with a trace that is safe and true to them; `LAT` and `CLK` are 0, and the output is
on or off. -/
structure Bus.Driven (b : Bus) (oe : Bool) : Prop where
  pins : b.pinsActive = true
  traced : b.Traced
  shown : b.oe = oe
  lat : b.lat = false
  clk : b.clk = false

theorem Levels.eq_of_lines {l m : Levels} (hoe : l.oe = m.oe) (hlat : l.lat = m.lat) (hclk : l.clk = m.clk) :
    l = m := by
  cases l
  cases m
  simp_all

namespace Bus.Driven

variable {b c : Bus} {oe : Bool}

theorem levelsAfter_wave (h : b.Driven oe) : levelsAfter b.wave = { oe := oe, lat := false, clk := false } :=
  (h.traced.shown h.pins).trans (Levels.eq_of_lines h.shown h.lat h.clk)

theorem advance (h : b.Driven oe) (d : Nat) : (b.advance d).Driven oe :=
  ⟨h.pins, h.traced.advance d, h.shown, h.lat, h.clk⟩

theorem blankThenAddress (h : b.Driven oe) (lines : Nat) (row : BitVec 16) :
    (b.blankThenAddress lines row).Driven false :=
  ⟨by simpa using h.pins, h.traced.blankThenAddress lines row, by simp, by simpa using h.lat,
    by simpa using h.clk⟩

theorem latchAndShow (h : b.Driven false) (delay width : Nat) : (b.latchAndShow delay width).Driven true :=
  ⟨by simpa using h.pins, h.traced.latchAndShow h.shown h.clk delay width, by simp, by simp,
    by simpa using h.clk⟩

theorem onTimeThenBlank (h : b.Driven oe) (u : Nat) : (b.onTimeThenBlank u).Driven false :=
  ⟨by simpa using h.pins, h.traced.onTimeThenBlank u, by simp, by simpa using h.lat, by simpa using h.clk⟩

variable {t : TrainTiming} {word : Nat → BitVec 6} {stall : Nat → Nat} {n : Nat}

theorem train_complete (h : b.Driven false) (hc : b.pulseTrain t word stall n = .complete c) :
    c.Driven false := by
  obtain ⟨hpins, hoe, hlat, -, hclk, -, -, htraced⟩ := transfers_complete t word stall n _ 0 b c (by omega) hc
  exact ⟨hpins.trans h.pins, htraced h.traced h.shown h.lat h.clk, hoe.trans h.shown, hlat.trans h.lat,
    hclk h.clk⟩

theorem train_overrun {k : Nat} (h : b.Driven false) (hc : b.pulseTrain t word stall n = .overrun k c) :
    c.safeLevels.Driven false := by
  obtain ⟨-, -, -, -, hpins, -, -, -, -, htraced⟩ := transfers_overrun t word stall n _ 0 k b c hc
  exact ⟨by simpa using hpins.trans h.pins, (htraced h.traced h.shown h.lat h.clk).safeLevels, by simp, by simp,
    by simp⟩

end Bus.Driven

/-! ## `START`'s activation of the pins (44_lifecycle.md R173) -/

/-- What holds after the output's own event and survives a recorded drive to 0 holds after the activation. -/
theorem Bus.activatePins_keeps {P : Bus → Prop} {b : Bus} (lines : Nat)
    (h : P (Bus.driveRecorded .oe false { b with pinsActive := true }))
    (hP : ∀ c l, P c → P (c.driveRecorded l false)) : P (b.activatePins lines) :=
  List.foldlRecOn _ _ (List.foldlRecOn _ _ (hP _ .clk (hP _ .lat h)) fun c hc i _ => hP c (.data i) hc)
    fun c hc i _ => hP c (.addr i) hc

/-- Lines that are all low stay so, and their trace stays safe, when one of them is driven to 0 again. -/
theorem Bus.Driven.driveRecorded_low {b : Bus} (h : b.Driven false) (l : Line) :
    (b.driveRecorded l false).Driven false where
  pins := by simpa using h.pins
  traced := h.traced.driveRecorded l false fun _ => by
    cases l <;> simp [Event.allowed, levels, h.shown, h.lat, h.clk]
  shown := by rw [driveRecorded_oe, h.shown]; exact ite_self _
  lat := by rw [driveRecorded_lat, h.lat]; exact ite_self _
  clk := by rw [driveRecorded_clk, h.clk]; exact ite_self _

/-- Whatever the trace showed of the output before (a hardware reset releases it without an event), the first
event of the activation sets it right. -/
theorem Bus.activatePins_driven {b : Bus} (hsafe : WaveSafe b.wave) (hordered : WaveOrdered b.now b.wave)
    (htrace : (levelsAfter b.wave).lat = false ∧ (levelsAfter b.wave).clk = false) (hlat : b.lat = false)
    (hclk : b.clk = false) (lines : Nat) : (b.activatePins lines).Driven false := by
  obtain ⟨hwlat, hwclk⟩ := htrace
  refine activatePins_keeps (P := (Bus.Driven · false)) lines ?_ fun _ l h => h.driveRecorded_low l
  refine ⟨rfl, ⟨⟨nofun, hsafe⟩, ⟨Nat.le_refl _, hordered⟩, fun _ => ?_⟩, rfl, hlat, hclk⟩
  simp [driveRecorded, record, setLevel, levelsAfter, Levels.apply, levels, hwlat, hwclk, hlat, hclk]

/-- An address of 0 stays 0. -/
theorem Bus.activatePins_addr {b : Bus} (h : b.addr = 0) (lines : Nat) : (b.activatePins lines).addr = 0 := by
  refine activatePins_keeps (P := fun c => c.addr = 0) lines (by rw [driveRecorded_addr]; exact h)
    fun c l hc => ?_
  rw [driveRecorded_addr]
  cases l
  case addr i => simp [hc, setBit]
  all_goals exact hc

/-! ## The frame boundary and fatal entry -/

/-- The frame boundary is a schedule position (41_scheduler.md R126). -/
theorem Pos.origin_valid {rows depth : Nat} (hrows : 1 ≤ rows) (hdepth : 1 ≤ depth) :
    Pos.origin.Valid rows depth :=
  ⟨hrows, Nat.two_pow_pos _, hdepth, by simp [planeDue, Pos.origin]⟩

/-- A timing violation, whole (60_exceptions.md R192, R196). -/
theorem State.fatalEntry_timing (s : State) (info : Word) : s.fatalEntry .timingViolation info = { s with
    errCode := if s.errCode = .noError then .timingViolationError else s.errCode
    errInfo := if s.errCode = .noError then info else s.errInfo
    trainBusy := false
    bus := s.bus.safeLevels
    lastResult := .aborted
    fsm := .idle
    mode := .faulted } := by
  simp only [State.fatalEntry, State.recordError]
  split <;> rfl

/-- A timing violation with no error recorded before it. -/
theorem State.fatalEntry_timing_first (s : State) (info : Word) (h : s.errCode = .noError) :
    s.fatalEntry .timingViolation info = { s with
      errCode := .timingViolationError
      errInfo := info
      trainBusy := false
      bus := s.bus.safeLevels
      lastResult := .aborted
      fsm := .idle
      mode := .faulted } := by
  rw [s.fatalEntry_timing, if_pos h, if_pos h]

/-! ## The invariant along the operations (R154, 70_reset_and_hazards.md R232) -/

namespace State.Inv

variable {s : State} (h : s.Inv)
include h

theorem trainBusy_off : s.trainBusy = false := by
  obtain ⟨-, -, hbusy⟩ := h.quiet
  exact hbusy

theorem noError (hm : s.mode ≠ .faulted) : s.errCode = .noError := by
  obtain ⟨hcode, -⟩ := h.error
  exact hcode.2 hm

theorem pinsActive (hm : s.mode = .running) : s.bus.pinsActive = true := by
  obtain ⟨-, hactive⟩ := h.pins
  exact hactive (.inl hm)

/-- Lines that the pins carry are as their trace shows them. -/
theorem driven (hp : s.bus.pinsActive = true) : s.bus.Driven s.bus.oe := by
  obtain ⟨htlat, htclk, htoe⟩ := h.traced
  obtain ⟨hlat, hclk, -⟩ := h.quiet
  exact ⟨hp, ⟨h.wave, h.ordered, fun _ => Levels.eq_of_lines (htoe hp) (htlat.trans hlat.symm)
    (htclk.trans hclk.symm)⟩, rfl, hlat, hclk⟩

theorem oe_off (hf : s.fsm ≠ .blanking) : s.bus.oe = false :=
  Bool.eq_false_iff.2 fun ho => hf (h.shown.1 ho)

/-- Outside `Blanking` they are all low. -/
theorem driven_off (hp : s.bus.pinsActive = true) (hf : s.fsm ≠ .blanking) : s.bus.Driven false :=
  h.oe_off hf ▸ h.driven hp

/-- A phase of a cycle: the lines go on, and the FSM to the state that says whether the output is on. -/
theorem phase (hm : s.mode = .running) {c : Bus} {f : FsmState} {oe : Bool} (hc : c.Driven oe)
    (hoe : oe = true ↔ f = .blanking)
    (haddr : ∀ i, s.cfg.addressLines ≤ i → c.addr.getLsbD i = s.bus.addr.getLsbD i)
    (hcur : f ≠ .idle → s.curRow = s.pos.row ∧ s.curPlane = s.pos.plane)
    (hrow : f = .shifting ∨ f = .latching ∨ f = .blanking → s.rowbuf.words.length = s.cfg.rowPixels.toNat) :
    State.Inv { s with bus := c, fsm := f } :=
  { h with
    idle := fun hne => absurd hm hne
    quiet := ⟨hc.lat, hc.clk, h.trainBusy_off⟩
    shown := hc.shown ▸ hoe
    pins := ⟨by simp [hm], fun _ => hc.pins⟩
    released := by simp [hc.pins]
    current := hcur
    rowWords := hrow
    addrHigh := fun hi i hA => (haddr i hA).trans (h.addrHigh hi i hA)
    wave := hc.traced.safe
    ordered := hc.traced.ordered
    traced := by simp [hc.levelsAfter_wave, hc.shown] }

/-- The gap before a tick passes (41_scheduler.md R128). -/
theorem waitGap (hm : s.mode = .running) : State.Inv { s with bus := s.bus.advance s.env.gap } :=
  h.phase hm ((h.driven (h.pinsActive hm)).advance s.env.gap) h.shown (fun _ _ => rfl) h.current h.rowWords

/-- A cycle begins with the pair of `POS`, whichever buffer is active (41_scheduler.md R127, R128). -/
theorem beginCycle (hm : s.mode = .running) (hf : s.fsm = .idle) (activeBuf swapPending : Bool) :
    (State.beginCycle { s with activeBuf := activeBuf, swapPending := swapPending }).Inv := by
  have hpair : State.Inv { s with
      activeBuf := activeBuf, swapPending := swapPending, curRow := s.pos.row, curPlane := s.pos.plane } :=
    { h with current := fun hne => absurd hf hne }
  exact hpair.phase hm (h.driven_off (h.pinsActive hm) (by simp [hf])) (by simp) (fun _ _ => rfl)
    (fun _ => ⟨rfl, rfl⟩) (by simp)

/-- The row of the pair fills `ROWBUF` and its address the low lines (41_scheduler.md R129). -/
theorem select (hm : s.mode = .running) (hf : s.fsm = .selectPlane) : State.Inv { s with
    rowbuf := { s.rowbuf with
      words := s.fb.rowPlane s.cfg s.activeBuf s.curRow.toNat s.curPlane.toNat }
    bus := s.bus.blankThenAddress s.cfg.addressLines s.curRow
    fsm := .shifting } := by
  have hrow : State.Inv { s with rowbuf := { s.rowbuf with
      words := s.fb.rowPlane s.cfg s.activeBuf s.curRow.toNat s.curPlane.toNat } } :=
    { h with rowWords := by simp [hf] }
  refine hrow.phase hm ((h.driven (h.pinsActive hm)).blankThenAddress _ _) (by simp) (fun i hA => ?_)
    (fun _ => h.current (by simp [hf])) (fun _ => s.fb.rowPlane_length ..)
  rw [Bus.blankThenAddress_bit, if_neg fun hi => absurd hi.1 (Nat.not_lt.2 hA)]

/-- A completed train has shifted the row; the address is held (41_scheduler.md R130). -/
theorem shiftDone (hm : s.mode = .running) (hf : s.fsm = .shifting) {c : Bus}
    (hc : s.bus.pulseTrain s.trainTiming s.rowbuf.word s.env.stallOf s.cfg.rowPixels.toNat = .complete c) :
    State.Inv { s with bus := c, fsm := .latching } :=
  h.phase hm ((h.driven_off (h.pinsActive hm) (by simp [hf])).train_complete hc) (by simp)
    (fun _ _ => by rw [Bus.pulseTrain_complete_eq _ _ _ _ _ _ hc]) (fun _ => h.current (by simp [hf]))
    (fun _ => h.rowWords (.inl hf))

/-- The latched row is shown (41_scheduler.md R132). -/
theorem latchDone (hm : s.mode = .running) (hf : s.fsm = .latching) (delay width : Nat) :
    State.Inv { s with bus := s.bus.latchAndShow delay width, fsm := .blanking } :=
  h.phase hm ((h.driven_off (h.pinsActive hm) (by simp [hf])).latchAndShow delay width) (by simp)
    (fun _ _ => by rw [Bus.latchAndShow_addr]) (fun _ => h.current (by simp [hf]))
    (fun _ => h.rowWords (.inr (.inl hf)))

/-- The end of a cycle, complete or skipped, blanks and moves the schedule on (41_scheduler.md R126, R133). -/
theorem endCycle (hm : s.mode = .running) {c : Bus} (hc : c.Driven false) (haddr : c.addr = s.bus.addr)
    (r : CycleResult) :
    State.Inv { (State.cycleComplete { s with bus := c } r).advancePos with fsm := .idle } := by
  have hidle : State.Inv { s with bus := c, fsm := .idle } :=
    h.phase hm hc (by simp) (fun _ _ => by rw [haddr]) (fun hne => absurd rfl hne) (by simp)
  exact { hidle with
    position := fun hi => by
      obtain ⟨hv, -, -⟩ := h.initialised hi
      have hrows : s.cfg.rowAddresses ≤ 65536 := (Nat.div_le_self ..).trans hv.rows.2.2
      exact successorKeepsPositionsValid _ _ _ hrows hv.depth.2 (h.position hi)
    origin := fun hr => by simp [hm] at hr
    current := fun hne => absurd rfl hne }

/-- The loop stops in Idle (41_scheduler.md R128, R133). -/
theorem stop (hm : s.mode = .running) (hf : s.fsm = .idle) : s.stop.Inv :=
  { h with
    idle := fun _ => hf
    error := by simp [h.noError (by simp [hm])]
    pins := ⟨by simp, fun _ => h.pinsActive hm⟩
    initialised := fun _ => h.initialised (by rw [hm]; rfl)
    position := fun _ => h.position (by rw [hm]; rfl)
    origin := nofun
    addrHigh := fun _ => h.addrHigh (by rw [hm]; rfl)
    shutdown := nofun }

/-- The loop starts on lines that are all low (44_lifecycle.md R173). -/
theorem run (hm : s.mode = .configured ∨ s.mode = .stopped) {c : Bus} (hc : c.Driven false)
    (haddr : ∀ i, s.cfg.addressLines ≤ i → c.addr.getLsbD i = false) :
    State.Inv { s with bus := c, shutdownReq := false, mode := .running } := by
  have hi : s.mode.initialised = true := by obtain hm | hm := hm <;> rw [hm] <;> rfl
  have hf : s.fsm = .idle := h.idle (by rintro hr; simp [hr] at hm)
  have hfault : s.mode ≠ .faulted := by rintro hr; simp [hr] at hm
  exact { h with
    idle := fun hne => absurd rfl hne
    quiet := ⟨hc.lat, hc.clk, h.trainBusy_off⟩
    shown := by simp [hc.shown, hf]
    error := by simp [h.noError hfault]
    pins := ⟨by simp, fun _ => hc.pins⟩
    released := by simp [hc.pins]
    initialised := fun _ => h.initialised hi
    position := fun _ => h.position hi
    origin := nofun
    addrHigh := fun _ => haddr
    shutdown := nofun
    wave := hc.traced.safe
    ordered := hc.traced.ordered
    traced := by simp [hc.levelsAfter_wave, hc.shown] }

/-- `START`: the pins are active already, or are activated with the address at 0. -/
theorem start (hm : s.mode = .configured ∨ s.mode = .stopped) : State.Inv { s with
    bus := if s.bus.pinsActive then s.bus else s.bus.activatePins s.cfg.addressLines
    shutdownReq := false
    mode := .running } := by
  have hf : s.fsm = .idle := h.idle (by rintro hr; simp [hr] at hm)
  have hi : s.mode.initialised = true := by obtain hm | hm := hm <;> rw [hm] <;> rfl
  split
  · next hp => exact h.run hm (h.driven_off hp (by simp [hf])) (h.addrHigh hi)
  · next hp =>
    obtain ⟨-, haddr⟩ := h.released (Bool.eq_false_iff.2 hp)
    obtain ⟨htlat, htclk, -⟩ := h.traced
    obtain ⟨hlat, hclk, -⟩ := h.quiet
    refine h.run hm (Bus.activatePins_driven h.wave h.ordered ⟨htlat, htclk⟩ hlat hclk _) fun i _ => ?_
    rw [Bus.activatePins_addr haddr]
    exact BitVec.getLsbD_zero

/-- A fatal error (60_exceptions.md R192). -/
theorem fault (ho : s.bus.oe = false) (e : FatalError) (info : Word) : State.Inv { s with
    errCode := e.errCode, errInfo := info, fsm := .idle, mode := .faulted } :=
  { h with
    idle := fun _ => rfl
    shown := by simp [ho]
    error := by cases e <;> simp [FatalError.errCode]
    pins := by simp
    initialised := nofun
    position := nofun
    origin := nofun
    current := fun hne => absurd rfl hne
    rowWords := by simp
    addrHigh := nofun
    shutdown := fun _ => .inr rfl }

/-- A transfer over its budget ends the loop with the lines at their safe levels (60_exceptions.md R192). -/
theorem overrun (hm : s.mode = .running) (hf : s.fsm = .shifting) {k : Nat} {c : Bus}
    (hc : s.bus.pulseTrain s.trainTiming s.rowbuf.word s.env.stallOf s.cfg.rowPixels.toNat = .overrun k c)
    (info : Word) : (State.fatalEntry { s with trainBusy := true, bus := c } .timingViolation info).Inv := by
  have hc' := (h.driven_off (h.pinsActive hm) (by simp [hf])).train_overrun hc
  have haddr : c.addr = s.bus.addr := by
    obtain ⟨-, -, -, -, -, -, -, haddr, -, -⟩ := Bus.transfers_overrun _ _ _ _ _ 0 k _ _ hc
    exact haddr
  have hsafe : State.Inv { s with bus := c.safeLevels, fsm := s.fsm } :=
    h.phase hm hc' (by simp [hf]) (fun _ _ => by rw [Bus.safeLevels_addr, haddr]) h.current h.rowWords
  rw [State.fatalEntry_timing_first { s with trainBusy := true, bus := c } info
    (h.noError (by simp [hm]))]
  exact { hsafe.fault hc'.shown .timingViolation info with quiet := ⟨hc'.lat, hc'.clk, rfl⟩ }

/-- A reset leaves the trace and the frame buffer (70_reset_and_hazards.md R216). -/
theorem resetRegisters : s.resetRegisters.Inv := by
  obtain ⟨htlat, htclk, -⟩ := h.traced
  exact { resetMeetsTheInvariant with
    requests := h.requests
    memory := h.memory
    initialised := nofun
    wave := h.wave
    ordered := h.ordered
    traced := ⟨htlat, htclk, nofun⟩
    grid := h.grid }

/-- The hardware reset forgets the contents of the frame buffer as well (20_memory.md R62). -/
theorem hardwareReset : s.hardwareReset.Inv :=
  { h.resetRegisters with
    memory := s.fb.wf_forget _
    initialised := nofun
    grid := resetMeetsTheInvariant.grid }

/-- A valid configuration in `Reset` becomes the one in force (40_configuration.md R110, R111). -/
theorem configure (hm : s.mode = .reset) (hv : s.cfg.Valid) : s.configure.Inv := by
  have hpins := h.pins.1 (.inl hm)
  have hshape : s.configure.fb.shape = s.cfg.shape := s.fb.takeShape_shape _
  have hrows : 1 ≤ s.cfg.rowAddresses := Nat.div_pos hv.rows.2.1 (by decide)
  exact { h with
    memory := s.fb.wf_takeShape _ h.memory
    idle := fun _ => h.idle (by simp [hm])
    error := by simp [h.noError (by simp [hm])]
    pins := ⟨fun _ => hpins, by simp⟩
    initialised := fun _ => ⟨hv, rfl, hshape⟩
    position := fun _ => by
      rw [State.configure_pos, h.origin hm]
      exact Pos.origin_valid hrows hv.depth.1
    origin := nofun
    addrHigh := fun _ i _ => by simp [(h.released hpins).2]
    shutdown := fun hr => by simpa [hm] using h.shutdown hr
    grid := hshape ▸ ⟨hv.rows.2.2, hv.columns.2.2, hv.depth.2⟩ }

/-- In `Reset` any register may be loaded (44_lifecycle.md R170). -/
theorem loadcfg (hm : s.mode = .reset) (c : ConfigRegs) : State.Inv { s with cfg := c } := by
  have hf : s.fsm = .idle := h.idle (by simp [hm])
  exact { h with
    initialised := by simp [hm, Mode.initialised]
    position := by simp [hm, Mode.initialised]
    rowWords := by simp [hf]
    addrHigh := by simp [hm, Mode.initialised] }

end State.Inv

/-! ## Every operation and every step -/

/-- Every operation of a run keeps the invariant: what stands inside a step is never asked for on its own by
its own agent (log 5). -/
theorem exec_keeps_inv {i : Instr} {s t : State} (h : s.Inv)
    (hrun : insideAStep i = false ∨ s.agent ∉ agentsOf i) (hx : exec i s = .next t) : t.Inv := by
  cases exec_outcomes i s t hx
  case refused | query => exact { h with }
  case loadcfg c ha hm hc => exact { h.loadcfg hm c with }
  case configureDivider ha | emitOverlap ha _ | emit ha _ _ _ | emitOverrun ha _ _ _ | train ha _ _ |
      trainOverrun ha _ _ | trainOverlap ha _ | onCycleComplete ha =>
    simp [ha, agentsOf, insideAStep] at hrun
  case initFails e m st he ha hm =>
    have ho : s.bus.oe = false := h.oe_off (by simp [h.idle (by simp [hm] : s.mode ≠ .running)])
    have hno : s.errCode = .noError := h.noError (by simp [hm])
    obtain rfl | rfl := he
    · rw [s.fatalEntry_configuration m hno]; exact { h.fault ho .configuration m with }
    · rw [s.fatalEntry_binding m hno]; exact { h.fault ho .binding m with }
  case init h1 h2 ha hm =>
    obtain ⟨hvalidate, hgeometry⟩ := BitVec.or_eq_zero_iff.1 h1
    exact { h.configure hm (ConfigRegs.valid_of_masks hvalidate hgeometry h2) with }
  case start ha hm => exact { h.start hm with }
  case shutdown ha hm => exact { h with shutdown := fun _ => .inl hm }
  case reset => exact { h.resetRegisters with }
  case swapBuffers => exact { h with }
  case fbWrite => exact { h with memory := s.fb.wf_write _ _ _ _ _ _ h.memory }
  case tickStop ha hm hf hr => exact { (h.waitGap hm).stop hm hf with }
  case tickSwap ha hm hf hr hp hs => exact { (h.waitGap hm).beginCycle hm hf _ _ with }
  case tick ha hm hf hr => exact { (h.waitGap hm).beginCycle hm hf s.activeBuf s.swapPending with }
  case select ha hm hf hr => exact { h.select hm hf with }
  case skip ha hm hf hr =>
    exact { h.endCycle hm (h.driven_off (h.pinsActive hm) (by simp [hf])) rfl .skipped with }
  case shiftDone c ha hm hf hb hc => exact { h.shiftDone hm hf hc with }
  case overrun k c ha hm hf hb hc => exact { h.overrun hm hf hc (overrunInfo k) with }
  case overlap ha hm hf hb => exact absurd (h.trainBusy_off.symm.trans hb) nofun
  case latchDone ha hm hf => exact { h.latchDone hm hf _ _ with }
  case blankDone ha hm hf hr =>
    exact { h.endCycle hm ((h.driven (h.pinsActive hm)).onTimeThenBlank _) (by simp) .complete with }
  case blankStop ha hm hf hr =>
    exact { (h.endCycle hm ((h.driven (h.pinsActive hm)).onTimeThenBlank _) (by simp) .complete).stop hm rfl
      with }

/-- Settles O56: a step performs no operation, or is a hardware reset, or executes an operation of a run. -/
theorem everyStepKeepsTheInvariant : Obligations.EveryStepKeepsTheInvariant := by
  intro s t h hs
  obtain ⟨-, -, hx⟩ | ⟨-, -, rfl⟩ | ⟨rest, a, w, i, hi, hd, hx⟩ | ⟨rest, a, w, e, hi, -, rfl⟩ |
    ⟨rest, e, hi, rfl⟩ | ⟨rest, hi, rfl⟩ := step_cases s t hs
  · exact exec_keeps_inv (s := { s with agent := .scheduler }) { h with } (.inl (by cases s.fsm <;> rfl)) hx
  · exact h
  · have hreq := h.requests
    simp only [hi, List.forall_mem_cons, Request.isRunStep, hd] at hreq
    exact exec_keeps_inv (s := { s with inbox := rest, agent := a }) { h with requests := hreq.2 }
      (by simpa using hreq.1) hx
  all_goals
    have hrest : ∀ r ∈ rest, r.isRunStep = true := fun r hr => h.requests r (by simp [hi, hr])
  · exact { h with requests := hrest }
  · exact { h with requests := hrest }
  · exact State.Inv.hardwareReset { h with requests := hrest }

/-! ## The five phases on the lines (R140 to R152) -/

/-- With the output off and the pins active: `LAT` up and down, and the output on with its fall. -/
theorem Bus.latchAndShow_eq (b : Bus) (delay width : Nat) (hp : b.pinsActive = true) (ho : b.oe = false)
    (hl : b.lat = false) : b.latchAndShow delay width = { b with
      oe := true
      now := b.now + delay + width
      wave := { time := b.now + delay + width, line := .oe, value := true } ::
        { time := b.now + delay + width, line := .lat, value := false } ::
        { time := b.now + delay, line := .lat, value := true } :: b.wave } := by
  have hwave : (b.latchAndShow delay width).wave = { time := b.now + delay + width, line := .oe, value := true } ::
      { time := b.now + delay + width, line := .lat, value := false } ::
      { time := b.now + delay, line := .lat, value := true } :: b.wave := by
    simpa [Records, hp, ho, hl, driveEvent] using b.latchAndShow_records delay width
  calc b.latchAndShow delay width
      = { b.latchAndShow delay width with wave := (b.latchAndShow delay width).wave } := rfl
    _ = _ := by rw [hwave]; simp [hl]

/-- A completed train at the programmed divider: two half periods for each pixel (R142, R148). -/
theorem State.train_eq (s : State) {b c : Bus} {word : Nat → BitVec 6} {n : Nat}
    (hc : b.pulseTrain s.trainTiming word s.env.stallOf n = .complete c) : c = { b with
      clk := b.clk && n == 0
      data := if n = 0 then b.data else word (n - 1)
      now := b.now + ((List.range ((n + 31) / 32)).map s.env.stallOf).sum + n * (1000 * s.divCfg.toNat)
      wave := (if b.pinsActive then
          (trainEvents b.now (500 * s.divCfg.toNat) s.env.stallOf word b.clk b.data n).reverse
        else []) ++ b.wave } := by
  have hpixel : 2 * s.trainTiming.half = 1000 * s.divCfg.toNat := by
    rw [State.trainTiming, halfPeriodTu, ← Nat.mul_assoc]
  have hbus := Bus.pulseTrain_complete_eq _ _ _ _ _ _ hc
  rwa [hpixel] at hbus

namespace Bus

variable {b c : Bus} {t : TrainTiming} {word : Nat → BitVec 6} {stall : Nat → Nat} {n : Nat}

/-- A completed train from a low clock has one rising edge for each pixel (R148). -/
theorem pulseTrain_risingClocks (hc : b.pulseTrain t word stall n = .complete c) (hp : b.pinsActive = true)
    (hclk : b.clk = false) : risingClocks c.wave = risingClocks b.wave + n := by
  obtain ⟨-, -, -, -, -, -, hrising, -⟩ := transfers_complete t word stall n _ 0 b c (by omega) hc
  exact hrising hp hclk

variable {lines : Nat} {row : BitVec 16}
  (hc : (b.blankThenAddress lines row).pulseTrain t word stall n = .complete c)
include hc

/-- The events of a whole cycle, phase by phase, whose train leaves the bus `c`. -/
theorem cycle_records (delay width onTime : Nat) :
    b.Records ((c.latchAndShow delay width).onTimeThenBlank onTime)
      (driveEvent b.now .oe b.oe false ++ addrEvents b.now lines b.addr row
        ++ trainEvents b.now t.half stall word b.clk b.data n
        ++ driveEvent (c.now + delay) .lat b.lat true
        ++ ([{ time := c.now + delay + width, line := .lat, value := false },
            { time := c.now + delay + width, line := .oe, value := true },
            { time := c.now + delay + width + onTime, line := .oe, value := false }] : List Event)) := by
  have hbus := pulseTrain_complete_eq t word stall n _ c hc
  have hpins : c.pinsActive = b.pinsActive := by rw [hbus]; exact b.blankThenAddress_pinsActive ..
  have hoe : c.oe = false := by rw [hbus]; exact b.blankThenAddress_oe ..
  have hlat : c.lat = b.lat := by rw [hbus]; exact b.blankThenAddress_lat ..
  have htrain := (pulseTrain_records t word stall n _ c hc).1
  have hlatch := c.latchAndShow_records delay width
  have hblank := (c.latchAndShow delay width).onTimeThenBlank_records onTime
  rw [blankThenAddress_now, blankThenAddress_clk, blankThenAddress_data] at htrain
  rw [hoe, hlat] at hlatch
  rw [latchAndShow_oe, latchAndShow_now] at hblank
  have hcycle := (((b.blankThenAddress_records lines row).trans (by simp) htrain).trans hpins hlatch).trans
    (by simp [hpins]) hblank
  simpa [driveEvent] using hcycle

/-- From driven lines with `OE` and `LAT` at 0 a cycle records what R155 lists. -/
theorem cycle_wave (hp : b.pinsActive = true) (ho : b.oe = false) (hl : b.lat = false)
    (delay width onTime : Nat) : ((c.latchAndShow delay width).onTimeThenBlank onTime).wave =
      (addrEvents b.now lines b.addr row ++ trainEvents b.now t.half stall word b.clk b.data n
        ++ ([{ time := c.now + delay, line := .lat, value := true },
            { time := c.now + delay + width, line := .lat, value := false },
            { time := c.now + delay + width, line := .oe, value := true },
            { time := c.now + delay + width + onTime, line := .oe, value := false }] : List Event)).reverse
        ++ b.wave := by
  simpa [Records, hp, ho, hl, driveEvent] using cycle_records hc delay width onTime

/-- The bus after a whole cycle whose train leaves the bus `c`. -/
theorem cycle_eq (delay width onTime : Nat) : (c.latchAndShow delay width).onTimeThenBlank onTime = { b with
      oe := false
      lat := false
      clk := b.clk && n == 0
      data := if n = 0 then b.data else word (n - 1)
      addr := (b.blankThenAddress lines row).addr
      now := c.now + delay + width + onTime
      wave := (if b.pinsActive then (driveEvent b.now .oe b.oe false ++ addrEvents b.now lines b.addr row
          ++ trainEvents b.now t.half stall word b.clk b.data n
          ++ driveEvent (c.now + delay) .lat b.lat true
          ++ ([{ time := c.now + delay + width, line := .lat, value := false },
              { time := c.now + delay + width, line := .oe, value := true },
              { time := c.now + delay + width + onTime, line := .oe, value := false }] : List Event)).reverse
        else []) ++ b.wave } := by
  have hwave : ((c.latchAndShow delay width).onTimeThenBlank onTime).wave = _ :=
    cycle_records hc delay width onTime
  have hbus := pulseTrain_complete_eq t word stall n _ c hc
  have hpins : c.pinsActive = b.pinsActive := by rw [hbus]; exact b.blankThenAddress_pinsActive ..
  have hclk : c.clk = (b.clk && n == 0) := by rw [hbus, blankThenAddress_clk]
  have hdata : c.data = if n = 0 then b.data else word (n - 1) := by rw [hbus, blankThenAddress_data]
  have haddr : c.addr = (b.blankThenAddress lines row).addr := by rw [hbus]
  rw [← hwave, ← hclk, ← hdata, ← haddr, ← hpins]
  calc (c.latchAndShow delay width).onTimeThenBlank onTime
      = { (c.latchAndShow delay width).onTimeThenBlank onTime with oe := false } := by
        rw [← (c.latchAndShow delay width).onTimeThenBlank_oe onTime]
    _ = _ := by simp

/-- A whole cycle from a low clock has one rising edge for each pixel. -/
theorem cycle_risingClocks (hp : b.pinsActive = true) (hclk : b.clk = false) (delay width onTime : Nat) :
    risingClocks ((c.latchAndShow delay width).onTimeThenBlank onTime).wave = risingClocks b.wave + n := by
  rw [risingClocks_onTimeThenBlank, risingClocks_latchAndShow,
    pulseTrain_risingClocks hc (by simpa using hp) (by simpa using hclk), risingClocks_blankThenAddress]

end Bus

/-! ## An overrun on the state (R146, 60_exceptions.md R192) -/

/-- A train whose transfer `k` is the first over its slack ends the loop at that transfer's deadline. -/
theorem State.pulseTrain_aborts (s : State) (n k : Nat) (done aborted : State → State)
    (hb : s.trainBusy = false) (he : s.errCode = .noError) (hk : k < (n + 31) / 32)
    (hs : s.cfg.slackTu < s.env.stallOf k) (hle : ∀ j, j < k → s.env.stallOf j ≤ s.cfg.slackTu) :
    ∃ c : Bus, s.pulseTrain n done aborted = aborted { s with
        bus := c, errCode := .timingViolationError, errInfo := overrunInfo k
        lastResult := .aborted, fsm := .idle, mode := .faulted } ∧
      c.oe = false ∧ c.lat = false ∧ c.clk = false ∧ c.addr = s.bus.addr ∧
      c.pinsActive = s.bus.pinsActive ∧
      c.now = s.bus.now + ((List.range k).map s.env.stallOf).sum + k * (32 * (1000 * s.divCfg.toNat))
        + s.cfg.budgetTu := by
  obtain ⟨c, habort, hpins, haddr, hnow⟩ := s.pulseTrain_over n k done aborted hb hk hs hle
  refine ⟨c.safeLevels, ?_, by simp, by simp, by simp, by simpa using haddr, by simpa using hpins,
    by simpa using hnow⟩
  rw [habort, State.fatalEntry_timing_first { s with trainBusy := true, bus := c } _ he, hb]

/-! ## The operations asked for on their own (log 5) -/

section
variable (s : State)

theorem exec_startPulseTrain (count : Word) (ha : s.agent = .adapter) : exec (.startPulseTrain count) s =
    .next (s.pulseTrain count.toNat (fun t => t.quiet) (fun t => t.quiet)) :=
  State.gate_open s _ _ _ (by simp [ha]) (mem_anyMode _)

theorem exec_emit_overlap (plane : BitVec 8) (row : BitVec 16) (ha : s.agent = .sequencer)
    (h : s.fsm ≠ .selectPlane ∨ s.trainBusy = true) : exec (.emit plane row) s =
      .next { s.fatalEntry .timingViolation overlapInfo with reply := .cycleResult .aborted } :=
  (State.gate_open s _ _ _ (by simp [ha]) (mem_anyMode _)).trans (by rw [if_pos h])

theorem exec_emit {plane : BitVec 8} {row : BitVec 16} (ha : s.agent = .sequencer)
    (hf : s.fsm = .selectPlane) (hb : s.trainBusy = false) (hrow : row.toNat < s.cfg.rowAddresses)
    (hplane : plane.toNat < s.cfg.colorDepth.toNat) : exec (.emit plane row) s = .next (State.pulseTrain
      { s with bus := s.bus.blankThenAddress s.cfg.addressLines row } s.cfg.rowPixels.toNat
      (fun t => { t.latchShowComplete with reply := .cycleResult .complete })
      (fun t => { t with reply := .cycleResult .aborted })) :=
  (State.gate_open s _ _ _ (by simp [ha]) (mem_anyMode _)).trans
    (by rw [if_neg (by simp [hf, hb]), if_neg (by omega)])

/-- An `EMIT` whose train completes with the bus `c` latches, shows and blanks from there. -/
theorem exec_emit_complete {plane : BitVec 8} {row : BitVec 16} (ha : s.agent = .sequencer)
    (hf : s.fsm = .selectPlane) (hb : s.trainBusy = false) (hrow : row.toNat < s.cfg.rowAddresses)
    (hplane : plane.toNat < s.cfg.colorDepth.toNat) {c : Bus}
    (hc : (s.bus.blankThenAddress s.cfg.addressLines row).pulseTrain s.trainTiming s.rowbuf.word s.env.stallOf
      s.cfg.rowPixels.toNat = .complete c) : exec (.emit plane row) s = .next { s with
        bus := (c.latchAndShow s.cfg.latchDelayTu s.cfg.latchPulseTu).onTimeThenBlank s.cfg.onTimeTu
        lastResult := .complete
        reply := .cycleResult .complete } :=
  (exec_emit s ha hf hb hrow hplane).trans (congrArg _ (State.pulseTrain_complete
    { s with bus := s.bus.blankThenAddress s.cfg.addressLines row } _ _ _ c hb hc))

theorem exec_onCycleComplete {result : BitVec 8} {r : CycleResult} (ha : s.agent = .adapter)
    (hr : resultOperand result = some r) : exec (.onCycleComplete result) s =
      .next (s.cycleComplete r).quiet :=
  (State.gate_open s _ _ _ (by simp [ha]) (mem_anyMode _)).trans (by rw [hr])

/-- `SHIFT_DONE` in its place is the train of `W` pixels, however it ends (41_scheduler.md R130). -/
theorem exec_shiftDone_train (ha : s.agent = .scheduler) (hm : s.mode = .running) (hf : s.fsm = .shifting) :
    exec .shiftDone s = .next (s.pulseTrain s.cfg.rowPixels.toNat
      (fun t => State.quiet { t with fsm := .latching }) (fun t => t.quiet)) :=
  State.stepGate_open s .shifting _ ha hm hf

end

/-- Settles O44: 1 and 3 are the results of R152, and any other operand is reserved
(`refusedOperationsChangeNothing`). -/
theorem onCycleCompleteRecordsTheResult : Obligations.OnCycleCompleteRecordsTheResult := by
  intro result s ha
  refine ⟨?_, ?_, fun h1 h3 => refusedOperationsChangeNothing _ s (.inr (.inr ?_))⟩
  · rintro rfl; exact exec_onCycleComplete s ha (r := .complete) rfl
  · rintro rfl; exact exec_onCycleComplete s ha (r := .aborted) rfl
  · rw [← BitVec.toNat_inj.ne] at h1 h3
    simpa [Instr.wellFormed] using ⟨h1, h3⟩

/-- Settles O42: a train within the slack completes, with the events of `State.train_eq`. -/
theorem pulseTrainClocksExactlyItsPixels : Obligations.PulseTrainClocksExactlyItsPixels := by
  intro count s ha hb hs
  obtain ⟨c, hc, hdone⟩ := s.pulseTrain_within count.toNat (fun t => t.quiet) (fun t => t.quiet) hb hs
  exact ⟨_, (exec_startPulseTrain s count ha).trans (congrArg _ hdone), rfl, s.train_eq hc,
    Bus.pulseTrain_risingClocks hc⟩

/-- Settles O40: the cycle of `Bus.cycle_eq`, whose train is that of the programmed divider. -/
theorem emitRunsOneWholeCycle : Obligations.EmitRunsOneWholeCycle := by
  intro plane row s ha hf hb hrow hplane hs complete rise fall off
  obtain ⟨c, hc⟩ := (s.bus.blankThenAddress s.cfg.addressLines row).pulseTrain_completes s.trainTiming
    s.rowbuf.word s.env.stallOf s.cfg.rowPixels.toNat hs
  have hnow : c.now = complete := by rw [s.train_eq hc, Bus.blankThenAddress_now]
  have hcycle := Bus.cycle_eq hc s.cfg.latchDelayTu s.cfg.latchPulseTu s.cfg.onTimeTu
  have haddr := congrArg Bus.addr hcycle
  rw [hnow, ← haddr] at hcycle
  exact ⟨_, exec_emit_complete s ha hf hb hrow hplane hc, rfl, hcycle,
    fun i => haddr ▸ s.bus.blankThenAddress_bit .., fun hp hclk => Bus.cycle_risingClocks hc hp hclk _ _ _⟩

/-- Settles O41: fatal entry keeps a recorded error, and `Bus.safeLevels_eq` gives the lines. -/
theorem overlapIsATimingViolation : Obligations.OverlapIsATimingViolation := by
  intro s safe
  have hfatal : s.fatalEntry .timingViolation overlapInfo = _ := s.fatalEntry_timing overlapInfo
  have hsafe : s.bus.safeLevels = safe := s.bus.safeLevels_eq
  rw [hsafe] at hfatal
  refine ⟨fun plane row ha h => ⟨_, exec_emit_overlap s plane row ha h, ?_⟩, fun count ha hb =>
    ⟨_, (exec_startPulseTrain s count ha).trans (congrArg _ (s.pulseTrain_overlap _ _ _ hb)), ?_⟩⟩
  all_goals
    rw [hfatal]
    exact ⟨rfl, fun he => ⟨if_pos he, if_pos he⟩, fun he => ⟨if_neg he, if_neg he⟩⟩

/-- Settles O31: the train of `W` pixels aborts at transfer `k` (`State.pulseTrain_aborts`). -/
theorem overrunIsFatal : Obligations.OverrunIsFatal := by
  intro s k ha hm hf hb he _ _ hk hs hle
  obtain ⟨c, habort, hc⟩ := s.pulseTrain_aborts s.cfg.rowPixels.toNat k
    (fun t => State.quiet { t with fsm := .latching }) (fun t => t.quiet) hb he (by omega) hs hle
  obtain ⟨hbit, hindex⟩ := overrunInfo_fields k
  exact ⟨_, (exec_shiftDone_train s ha hm hf).trans (congrArg _ habort), rfl, hbit, hindex, hc⟩

/-- Settles O43: a train asked for on its own aborts at transfer `k`; so does that of an `EMIT`, after its
address. -/
theorem standAloneOverrunIsFatal : Obligations.StandAloneOverrunIsFatal := by
  intro s k hb he hs hle deadline
  obtain ⟨hbit, hindex⟩ := overrunInfo_fields k
  refine ⟨fun count ha hk => ?_, fun plane row ha hf hrow hplane hk => ?_⟩
  · obtain ⟨c, habort, hc⟩ := s.pulseTrain_aborts count.toNat k (fun t => t.quiet) (fun t => t.quiet)
      hb he hk hs hle
    exact ⟨_, (exec_startPulseTrain s count ha).trans (congrArg _ habort), rfl, hbit, hindex, hc⟩
  · obtain ⟨c, habort, hoe, hlat, hclk, haddr, hpins, hnow⟩ := State.pulseTrain_aborts
      { s with bus := s.bus.blankThenAddress s.cfg.addressLines row } s.cfg.rowPixels.toNat k
      (fun t => { t.latchShowComplete with reply := .cycleResult .complete })
      (fun t => { t with reply := .cycleResult .aborted }) hb he hk hs hle
    refine ⟨_, (exec_emit s ha hf hb hrow hplane).trans (congrArg _ habort), rfl, hbit, hindex, hoe, hlat,
      hclk, fun i => ?_, by simpa using hpins, by simpa using hnow⟩
    rw [haddr]
    exact s.bus.blankThenAddress_bit ..

/-- Settles O32: phases 3 to 5a as `Bus.latchAndShow_eq` gives them, with durations `D·M` and `L·M` for
`M ≥ 1` (log 25). -/
theorem latchPulseIsExact : Obligations.LatchPulseIsExact := by
  intro s ha hm hf hp ho hl rise fall
  refine ⟨fun hM => ⟨congrArg _ (s.cfg.durationTu_of_pos _ hM), congrArg _ (s.cfg.durationTu_of_pos _ hM)⟩,
    ?_⟩
  rw [exec_latchDone s ha hm hf, s.bus.latchAndShow_eq _ _ hp ho hl]
  rfl

/-! ## Five steps are one cycle (R155, 41_scheduler.md R135) -/

/-- A run, extended by a step after it. -/
theorem host_run_snoc (M : Host.Core) (n : Nat) {s t u : M.State} (h : M.run n s = .next t)
    (ht : M.step t = .next u) : M.run (n + 1) s = .next u := by
  induction n generalizing s with
  | zero =>
    obtain rfl := Host.Outcome.next.inj h
    exact host_run_succ M 0 s u ht
  | succ n ih =>
    rw [Host.Core.run] at h
    split at h
    · next s' hs => rw [host_run_succ M (n + 1) s s' hs, ih h]
    all_goals contradiction

/-- `BLANK_DONE` with no shutdown request ends the cycle and goes on (41_scheduler.md R133). -/
theorem step_blankDone {s : State} (hi : s.inbox = []) (hm : s.mode = .running) (hf : s.fsm = .blanking)
    (hr : s.shutdownReq = false) : step s = .next { s with
      agent := .scheduler
      reply := .silent
      bus := s.bus.onTimeThenBlank s.cfg.onTimeTu
      lastResult := .complete
      pos := s.pos.succ s.cfg.rowAddresses s.cfg.colorDepth.toNat
      fsm := .idle } :=
  (step_scheduler_open hi hm .blanking _ hf rfl).trans (congrArg _ (if_neg (by simp [hr])))

/-- The next cycle ended, whose train leaves the bus `c`. -/
def State.cycled (s : State) (c : Bus) : State := { s.showing c with
  bus := (c.latchAndShow s.cfg.latchDelayTu s.cfg.latchPulseTu).onTimeThenBlank s.cfg.onTimeTu
  lastResult := .complete
  pos := s.pos.succ s.cfg.rowAddresses s.cfg.colorDepth.toNat
  fsm := .idle }

/-- Five steps take a cycle from `Idle` back to `Idle` (R155). -/
theorem State.CycleReady.run_cycle {s : State} (h : s.CycleReady) :
    ∃ c, s.addressedBus.pulseTrain s.trainTiming s.nextRow.word s.env.stallOf s.cfg.rowPixels.toNat
        = .complete c ∧ Sys2Proof.core.run 5 s = .next (s.cycled c) := by
  obtain ⟨c, hc, hrun⟩ := h.run_to_blanking
  exact ⟨c, hc, host_run_snoc Sys2Proof.core 4 hrun
    (step_blankDone (s := s.showing c) h.inbox h.mode rfl h.shutdown)⟩

/-- In a valid configuration the durations are those of R155, none a free value, and a row is whole transfers
(40_configuration.md R111). -/
theorem ConfigRegs.Valid.durations {c : ConfigRegs} (h : c.Valid) :
    c.latchDelayTu = c.latchToClockDelayNs.toNat * c.baseClockMhz.toNat ∧
    c.latchPulseTu = c.latchPulseWidthNs.toNat * c.baseClockMhz.toNat ∧
    c.onTimeTu = c.onUnitNs.toNat * c.baseClockMhz.toNat ∧
    (c.rowPixels.toNat + 31) / 32 = c.rowPixels.toNat / 32 := by
  obtain ⟨hwhole, -⟩ := h.columns
  exact ⟨c.durationTu_of_pos _ h.baseClock, c.durationTu_of_pos _ h.baseClock,
    c.durationTu_of_pos _ h.baseClock, by omega⟩

/-- Settles O59: the run of `run_cycle`, with the bus of `Bus.cycle_eq` from the gap on. -/
theorem fiveStepsAreOneCycle : Obligations.FiveStepsAreOneCycle := by
  intro s h hm hf hi hr he hst start complete rise fall off
  obtain ⟨hv, hdiv, hgrid⟩ := h.initialised (by rw [hm]; rfl)
  obtain ⟨hlat, hclk, -⟩ := h.quiet
  obtain ⟨hdelay, hpulse, honTime, htransfers⟩ := hv.durations
  have hpins := h.pinsActive hm
  have hoe := h.oe_off (by simp [hf])
  obtain ⟨c, hc, hrun⟩ := (h.cycleReady hm hf hi hr he hst).run_cycle
  have hnow : c.now = complete := by
    rw [s.train_eq hc, hdiv, htransfers, State.addressedBus, Bus.blankThenAddress_now, Bus.advance_now]
  have hhalf : s.trainTiming.half = 500 * s.cfg.clockDivider.toNat := by rw [← hdiv]; rfl
  have hcycle : (s.cycled c).bus = _ := Bus.cycle_eq hc s.cfg.latchDelayTu s.cfg.latchPulseTu s.cfg.onTimeTu
  have hwave : (s.cycled c).bus.wave = _ := Bus.cycle_wave hc hpins hoe hlat s.cfg.latchDelayTu
    s.cfg.latchPulseTu s.cfg.onTimeTu
  rw [hnow, hdelay, hpulse, honTime] at hcycle hwave
  rw [hhalf, Bus.advance_clk, hclk] at hwave
  refine ⟨s.cycled c, hrun, hm, rfl, rfl, h.noError (by simp [hm]), rfl, rfl, rfl, rfl, rfl,
    congrArg Bus.oe hcycle, congrArg Bus.lat hcycle, ?clk, fun i => ?addr,
    Bus.cycle_risingClocks hc hpins hclk _ _ _, congrArg Bus.now hcycle, fun x hx => ?words, hwave⟩
  case clk => exact (congrArg Bus.clk hcycle).trans (by simp [hclk])
  case addr =>
    rw [hcycle]
    exact (s.bus.advance s.env.gap).blankThenAddress_bit ..
  case words =>
    exact (RowBuf.word_rowPlane _ _ _ _ _ _ _ hx).trans (FrameBuffer.columnWord_grid _ _ _ _ _ _ hgrid)

end Sys2Proof.Machine
end

section
/-! PROOFS of the frame buffer family (43_framebuffer.md): the row plane the Scheduler reads (R160), the swap a
producer requests (R162), and the channel value it writes (R164). -/

namespace Sys2Proof.Machine

/-! ## Reading (R160) -/

/-- R160, asked for on its own by the Scheduler (log 5): the gate is open to it in every mode. -/
theorem exec_getActiveRowPlane (plane : BitVec 8) (row : BitVec 16) (s : State) (ha : s.agent = .scheduler) :
    exec (.getActiveRowPlane plane row) s = .next (
      if s.cfg.rowAddresses ≤ row.toNat ∨ s.cfg.colorDepth.toNat ≤ plane.toNat then s.refuse
      else { s with reply := .rowPlane (s.fb.rowPlane s.cfg s.activeBuf row.toNat plane.toNat) }) :=
  State.gate_open s _ _ _ (by simp [ha]) (mem_anyMode _)

/-- A word of a row plane is that of its column, which lies in the row. -/
theorem FrameBuffer.columnWord_of_rowPlane {f : FrameBuffer} {c : ConfigRegs} {buf : Bool} {row plane x : Nat}
    {word : BitVec 6} (h : (f.rowPlane c buf row plane)[x]? = some word) :
    f.columnWord c buf row plane x = word := by
  obtain ⟨hx, -⟩ := List.getElem?_eq_some_iff.1 h
  rw [FrameBuffer.rowPlane_length] at hx
  exact Option.some.inj ((f.rowPlane_getElem? c buf row plane x hx).symm.trans h)

/-- Settles O45: the answer is the row plane of the active buffer, one word for each column, whose bits in the
buffer's own grid are those of its six locations. -/
theorem getActiveRowPlaneReadsTheActiveBuffer : Obligations.GetActiveRowPlaneReadsTheActiveBuffer := by
  intro plane row s ha
  have hexec := exec_getActiveRowPlane plane row s ha
  have hrows : s.cfg.rowAddresses = s.cfg.panelRows.toNat / 2 := rfl
  constructor
  · rintro ⟨hrow, hplane⟩
    rw [if_neg (by omega)] at hexec
    refine ⟨_, hexec, s.fb.rowPlane_length .., fun hgrid x word hword => ?_⟩
    intro value i
    rw [← FrameBuffer.columnWord_of_rowPlane hword, FrameBuffer.columnWord_grid _ _ _ _ _ _ hgrid]
    exact s.fb.pixelWord_getLsbD ..
  · intro hrange
    rwa [if_pos (by omega)] at hexec

/-! ## Swapping (R162) -/

/-- Settles O46: three modes open the producer's gate, and the other two refuse
(`refusedOperationsChangeNothing`). -/
theorem swapBuffersOnlyLeavesARequest : Obligations.SwapBuffersOnlyLeavesARequest := by
  intro s ha
  refine ⟨fun hm => State.gate_open s _ _ _ (by simp [ha]) (by simpa using hm), fun hm => ?_⟩
  refine refusedOperationsChangeNothing _ s (.inr (.inl ?_))
  obtain hm | hm := hm <;> simp [hm, modesOf]

/-! ## Writing (R164) -/

theorem Channel.number_le (c : Channel) : c.number ≤ 2 := by cases c <;> decide

/-- The operand of a channel is its number (20_memory.md R60). -/
theorem channelOperand_eq_some_iff {ch : BitVec 8} {c : Channel} :
    channelOperand ch = some c ↔ ch.toNat = c.number := by
  constructor
  · intro h
    unfold channelOperand at h
    split_ifs at h with h0 h1 h2 <;> obtain rfl := Option.some.inj h
    · exact congrArg BitVec.toNat h0
    · exact congrArg BitVec.toNat h1
    · exact congrArg BitVec.toNat h2
  · intro h
    rw [eq_ofNat_of_toNat_eq h]
    cases c <;> rfl

/-- A write leaves every location but its own as it was (20_memory.md R61). -/
theorem FrameBuffer.read_write_elsewhere (f : FrameBuffer) (depth depth' : Nat) {b b' : Bool} {y y' x x' : Nat}
    {c c' : Channel} (v : BitVec 16) (hy : y < 65536) (hy' : y' < 65536) (hx : x < 65536) (hx' : x' < 65536)
    (hne : ¬ (b' = b ∧ y' = y ∧ x' = x ∧ c' = c)) :
    (f.write depth b y x c v).read depth' b' y' x' c' = f.read depth' b' y' x' c' :=
  f.read_write_other _ _ _ _ _ _ _ _ _ _ _ fun hkey => hne (locationKey_inj hy' hy hx' hx hkey)

section
variable {ch : BitVec 8} (y x v : BitVec 16) (s : State) (ha : s.agent = .producer)
  (hm : s.mode = .configured ∨ s.mode = .running ∨ s.mode = .stopped)
include ha hm

/-- An operand that names no channel is refused, in its modes as in every other (30_encoding.md R90). -/
theorem exec_fbWrite_noChannel (hc : channelOperand ch = none) :
    exec (.fbWrite ch y x v) s = .next s.refuse :=
  (State.gate_open s _ _ _ (by simp [ha]) (by simpa using hm)).trans (by rw [hc])

/-- R164 for an operand that names a channel: the ranges, then the pending swap, then the write. -/
theorem exec_fbWrite_channel {c : Channel} (hc : channelOperand ch = some c) :
    exec (.fbWrite ch y x v) s = .next (
      if s.cfg.panelRows.toNat ≤ y.toNat ∨ s.cfg.rowPixels.toNat ≤ x.toNat
          ∨ 2 ^ s.cfg.colorDepth.toNat ≤ v.toNat then s.refuse
      else if s.swapPending then s.refuse
      else State.respond
        { s with fb := s.fb.write s.cfg.colorDepth.toNat (!s.activeBuf) y.toNat x.toNat c v } .ok 0) :=
  (State.gate_open s _ _ _ (by simp [ha]) (by simpa using hm)).trans (by rw [hc])

end

/-- Settles O47: past the refusals the state differs by one write, which is read back
(`FrameBuffer.read_write_same`) and seen nowhere else (`FrameBuffer.read_write_elsewhere`). -/
theorem fbWriteStoresOneInactiveValue : Obligations.FbWriteStoresOneInactiveValue := by
  intro ch y x v s ha hm
  constructor
  · intro hbad
    cases hc : channelOperand ch with
    | none => exact exec_fbWrite_noChannel y x v s ha hm hc
    | some c =>
      have hch : ¬ 2 < ch.toNat := Nat.not_lt.2 (channelOperand_eq_some_iff.1 hc ▸ c.number_le)
      refine (exec_fbWrite_channel y x v s ha hm hc).trans (congrArg _ ?_)
      obtain hbad | hy | hx | hv | hpending := hbad
      · exact absurd hbad hch
      · exact if_pos (.inl hy)
      · exact if_pos (.inr (.inl hx))
      · exact if_pos (.inr (.inr hv))
      · rw [if_pos hpending, ite_self]; rfl
  · intro c hch hy hx hv hpending
    have hexec := exec_fbWrite_channel y x v s ha hm (channelOperand_eq_some_iff.2 hch)
    rw [if_neg (by omega), if_neg (by simp [hpending])] at hexec
    exact ⟨_, hexec, rfl, rfl, rfl, s.fb.read_write_same _ _ _ _ _ _ hv, fun _ _ _ _ _ hy' hx' hne =>
      s.fb.read_write_elsewhere _ _ _ y.isLt hy' x.isLt hx' hne⟩

end Sys2Proof.Machine
end

section
/-! PROOFS of the lifecycle family (44_lifecycle.md): what the host's `LOADCFG`, `STATUS_READ`, `START`,
`SHUTDOWN` and `RESET` do (R170 to R176), which steps change `MODE` (R172), and the end of a run (R175, R232). -/

namespace Sys2Proof.Machine

/-! ## Configuration registers by number (R170, R171) -/

/-- Below the numbers of the other registers stand the configuration registers alone (10_state.md R21 to R39). -/
theorem State.register_of_config (s : State) {n : BitVec 8} (h : isConfigRegister n = true) :
    s.register n.toNat = s.cfg.read n.toNat := by
  have hlt : n.toNat < 0x40 := by
    simp only [isConfigRegister, Bool.or_eq_true, Bool.and_eq_true, decide_eq_true_eq] at h
    omega
  unfold State.register
  split
  case h_14 => rfl
  all_goals omega

/-- A number whose configuration register is the same shows the same register. -/
theorem State.register_withCfg (s : State) {c : ConfigRegs} (r : Reply) {n : Nat} (h : c.read n = s.cfg.read n) :
    State.register { s with cfg := c, reply := r } n = s.register n := by
  unfold State.register
  split
  case h_14 => exact h
  all_goals rfl

/-- `LOADCFG` of a register there is, in its mode. -/
theorem exec_loadcfg {reg : BitVec 8} {val : Word} {s : State} {c : ConfigRegs} (ha : s.agent = .host)
    (hm : s.mode = .reset) (hc : s.cfg.write reg.toNat val = some c) :
    exec (.loadcfg reg val) s = .next (State.respond { s with cfg := c } .ok 0) :=
  (State.gate_open s _ _ _ (by simp [ha]) (by simp [hm])).trans (by rw [hc])

/-- Settles O11: the register written reads back and every other one keeps its value
(`ConfigRegs.read_write_same`, `ConfigRegs.read_write_other`); a number without a register is reserved. -/
theorem loadcfgStoresAnyValue : Obligations.LoadcfgStoresAnyValue := by
  intro reg val s ha hm
  refine ⟨fun hreg => ?_, fun hreg => refusedOperationsChangeNothing _ s (.inr (.inr hreg))⟩
  obtain ⟨c, hc⟩ := Option.isSome_iff_exists.1 ((s.cfg.write_isConfigRegister reg val).trans hreg)
  refine ⟨_, exec_loadcfg ha hm hc, rfl, ?_, fun n hn => ?_⟩
  · rw [State.register_of_config _ hreg]
    exact ConfigRegs.read_write_same _ _ _ _ hc
  · exact s.register_withCfg _ (ConfigRegs.read_write_other _ _ _ _ _ hc hn)

/-- Settles O12: the gate is open to both agents in every mode, and a number with a register is answered with
its view. -/
theorem statusReadAnswersTheRegister : Obligations.StatusReadAnswersTheRegister := by
  intro reg s ha
  refine ⟨fun hreg => ?_, fun hreg => refusedOperationsChangeNothing _ s (.inr (.inr hreg))⟩
  obtain ⟨v, hv⟩ := Option.isSome_iff_exists.1 ((s.register_isRegister reg).trans hreg)
  exact ⟨v, hv, (State.gate_open s _ _ _ (by simpa using ha) (mem_anyMode _)).trans (by rw [hv]; rfl)⟩

/-! ## `START` (R173) -/

namespace Bus

/-- A recorded drive sets its own line and leaves every other one. -/
theorem level_driveRecorded (b : Bus) (l l' : Line) (v : Bool) :
    (b.driveRecorded l v).level l' = if l' = l then v else b.level l' := by
  cases l' with
  | oe => rw [level, driveRecorded_oe]; simp only [level, eq_comm]
  | lat => rw [level, driveRecorded_lat]; simp only [level, eq_comm]
  | clk => rw [level, driveRecorded_clk]; simp only [level, eq_comm]
  | data i =>
    rw [level, driveRecorded_data]
    cases l <;> simp only [level, setBit_getLsbD _ _ _ _ (Fin.isLt _), reduceCtorEq, if_false, Line.data.injEq,
      Fin.ext_iff]
  | addr i =>
    rw [level, driveRecorded_addr]
    cases l <;> simp only [level, setBit_getLsbD _ _ _ _ (Fin.isLt _), reduceCtorEq, if_false, Line.addr.injEq,
      Fin.ext_iff]

/-- The lines that the first activation drives, in the order of R173. -/
def activationLines (lines : Nat) : List Line :=
  [.oe, .lat, .clk, .data 0, .data 1, .data 2, .data 3, .data 4, .data 5] ++ (addrLines lines).map .addr

/-- Recorded drives of some lines to 0, in the order given. -/
def driveLow (ls : List Line) (b : Bus) : Bus := ls.foldl (fun c l => c.driveRecorded l false) b

theorem driveLow_cons (l : Line) (ls : List Line) (b : Bus) :
    driveLow (l :: ls) b = driveLow ls (b.driveRecorded l false) := rfl

theorem activatePins_eq_driveLow (b : Bus) (lines : Nat) :
    b.activatePins lines = driveLow (activationLines lines) { b with pinsActive := true } := by
  rw [driveLow, activationLines, List.foldl_append, List.foldl_map]
  rfl

/-- The lines driven are 0, the others keep their levels. -/
theorem level_driveLow (ls : List Line) (b : Bus) (l' : Line) :
    (driveLow ls b).level l' = if l' ∈ ls then false else b.level l' := by
  induction ls generalizing b with
  | nil => rfl
  | cons l ls ih =>
    rw [driveLow_cons, ih, level_driveRecorded]
    by_cases hl : l' = l <;> simp [hl]

/-- Every drive is recorded, at one time (00_scope.md R8 (e)). -/
theorem driveLow_wave (ls : List Line) (b : Bus) (hp : b.pinsActive = true) : (driveLow ls b).wave =
    (ls.map fun l => { time := b.now, line := l, value := false }).reverse ++ b.wave := by
  induction ls generalizing b with
  | nil => rfl
  | cons l ls ih =>
    rw [driveLow_cons, ih _ (by simpa using hp)]
    simp [driveRecorded_wave, hp]

section
variable (b : Bus) (lines : Nat)

theorem activatePins_now : (b.activatePins lines).now = b.now :=
  activatePins_keeps (P := fun c => c.now = b.now) lines (by simp) fun c l hc => by simpa using hc

theorem activatePins_wave : (b.activatePins lines).wave =
    ((activationLines lines).map fun l => { time := b.now, line := l, value := false }).reverse ++ b.wave := by
  rw [activatePins_eq_driveLow]
  exact driveLow_wave _ _ rfl

theorem level_activatePins (l : Line) :
    (b.activatePins lines).level l = if l ∈ activationLines lines then false else b.level l := by
  rw [activatePins_eq_driveLow]
  exact level_driveLow ..

/-- The control lines and the colour bits are 0 after the activation. -/
theorem activatePins_low : (b.activatePins lines).oe = false ∧ (b.activatePins lines).lat = false ∧
    (b.activatePins lines).clk = false ∧ (b.activatePins lines).data = 0 := by
  have low {l : Line} (h : l ∈ activationLines lines) : (b.activatePins lines).level l = false :=
    (b.level_activatePins lines l).trans (if_pos h)
  refine ⟨low (l := .oe) (by simp [activationLines]), low (l := .lat) (by simp [activationLines]),
    low (l := .clk) (by simp [activationLines]), BitVec.eq_of_getLsbD_eq fun i hi => ?_⟩
  have hmem : ∀ j : Fin 6, Line.data j ∈ activationLines lines := fun j =>
    List.mem_append_left _ (by revert j; decide)
  rw [BitVec.ofNat_eq_ofNat, BitVec.getLsbD_zero]
  exact low (hmem ⟨i, hi⟩)

/-- Of the address lines the activation drives those in use. -/
theorem activatePins_addr_bit (i : Nat) : (b.activatePins lines).addr.getLsbD i =
    if i < lines ∧ i < 16 then false else b.addr.getLsbD i := by
  by_cases hi : i < 16
  · have hmem : Line.addr ⟨i, hi⟩ ∈ activationLines lines ↔ i < lines := by
      simp [activationLines, mem_addrLines]
    simpa [level, hmem, hi] using b.level_activatePins lines (.addr ⟨i, hi⟩)
  · simp [hi, BitVec.getLsbD_of_ge _ i (Nat.not_lt.1 hi)]

end

end Bus

/-- `START` in its modes. -/
theorem exec_start (s : State) (ha : s.agent = .host) (hm : s.mode = .configured ∨ s.mode = .stopped) :
    exec .start s = .next (State.respond { s with
      bus := if s.bus.pinsActive then s.bus else s.bus.activatePins s.cfg.addressLines
      shutdownReq := false
      mode := .running } .ok 0) :=
  State.gate_open s _ _ _ (by simp [ha]) (by simpa using hm)

/-- Settles O14: with inactive pins the activation drives its lines to 0 one after the other, each recorded. -/
theorem startActivatesThePins : Obligations.StartActivatesThePins := by
  intro s ha hm
  refine ⟨_, exec_start s ha hm, rfl, fun hp => if_pos hp, fun hp => ?_⟩
  obtain ⟨hoe, hlat, hclk, hdata⟩ := s.bus.activatePins_low s.cfg.addressLines
  simp only [State.respond_bus, hp, Bool.false_eq_true, if_false]
  exact ⟨(s.bus.activatePins_later _).pins, hoe, hlat, hclk, hdata, s.bus.activatePins_now _,
    s.bus.activatePins_addr_bit _, s.bus.activatePins_wave _⟩

/-! ## `SHUTDOWN` and `RESET` (R174, R176) -/

/-- Settles O15: `Running` opens the host's gate, and every other mode refuses
(`refusedOperationsChangeNothing`). -/
theorem shutdownOnlyLeavesARequest : Obligations.ShutdownOnlyLeavesARequest := by
  intro s ha
  exact ⟨fun hm => State.gate_open s _ _ _ (by simp [ha]) (by simp [hm]),
    fun hm => refusedOperationsChangeNothing _ s (.inr (.inl (by simpa [modesOf] using hm)))⟩

/-- A reset leaves every register as after the first one (10_state.md R42). -/
theorem State.resetRegisters_atReset (s : State) : s.resetRegisters.AtReset :=
  { State.reset_atReset with }

/-- The modes in which `RESET` is allowed. -/
theorem mem_modesOf_reset (m : Mode) : m ∈ modesOf .reset ↔ m ≠ .running := by
  cases m <;> decide

/-- Settles O16: outside `Running` the registers are reset, of the timeline only the lines; `Running` refuses. -/
theorem resetCommandReinitialises : Obligations.ResetCommandReinitialises := by
  intro s ha
  refine ⟨fun hm => ⟨_, State.gate_open s _ _ _ (by simp [ha]) ((mem_modesOf_reset _).2 hm),
    { s.resetRegisters_atReset with }, rfl, rfl, rfl, rfl, rfl, rfl, rfl⟩,
    fun hm => refusedOperationsChangeNothing _ s (.inr (.inl ?_))⟩
  rw [mem_modesOf_reset]
  exact not_not.2 hm

/-! ## What changes `MODE` (R172) -/

/-- The next step of a state is this command of the host: `nextIsInit` and `nextIsStart` for any operation. -/
def State.nextIsCommand (s : State) (i : Instr) : Prop :=
  ∃ w, s.inbox.head? = some (.op .host w) ∧ decode w = .ok i

/-- `step_operation`, for every command of the host and not `RESET` alone: what a step executes for the host is a
command that was next, and in a run it is no operation that stands inside a step (log 5). -/
theorem step_command {s t : State} (h : step s = .next t) :
    (∃ env inbox agent reply, t = { s with env := env, inbox := inbox, agent := agent, reply := reply }) ∨
    (s.nextIsReset ∧ ∃ rest, t = State.hardwareReset { s with inbox := rest }) ∨
    ∃ i inbox agent, exec i { s with inbox := inbox, agent := agent } = .next t ∧
      (agent = .host → s.nextIsCommand i) ∧
      ((∀ r, s.inbox.head? = some r → r.isRunStep = true) → insideAStep i = false ∨ agent ∉ agentsOf i) := by
  obtain ⟨-, -, hx⟩ | ⟨-, -, rfl⟩ | ⟨rest, a, w, i, hi, hd, hx⟩ | ⟨rest, a, w, e, -, -, rfl⟩ |
    ⟨rest, e, -, rfl⟩ | ⟨rest, hi, rfl⟩ := step_cases s t h
  · exact .inr (.inr ⟨_, s.inbox, .scheduler, hx, nofun, fun _ => .inl (by cases s.fsm <;> rfl)⟩)
  · exact .inl ⟨_, _, _, _, rfl⟩
  · refine .inr (.inr ⟨i, rest, a, hx, ?_, fun hrun => ?_⟩)
    · rintro rfl
      exact ⟨w, by rw [hi]; rfl, hd⟩
    · have hstep := hrun (.op a w) (by rw [hi]; rfl)
      simpa [Request.isRunStep, hd] using hstep
  · exact .inl ⟨_, _, _, _, rfl⟩
  · exact .inl ⟨_, _, _, _, rfl⟩
  · exact .inr (.inl ⟨.inl (by rw [hi]; rfl), rest, rfl⟩)

/-- The transitions of R172 that an operation of a run takes, each with its condition. -/
inductive ModeChange (s t : State) : Instr → Prop where
  | init (ha : s.agent = .host) (hm : s.mode = .reset) (ht : t.mode = .configured ∨ t.mode = .faulted) :
      ModeChange s t .init
  | start (ha : s.agent = .host) (hm : s.mode = .configured ∨ s.mode = .stopped) (ht : t.mode = .running) :
      ModeChange s t .start
  | stop (i : Instr) (hm : s.mode = .running) (ht : t.mode = .stopped) (hr : s.shutdownReq = true)
      (hf : s.fsm = .blanking ∨ s.fsm = .idle) : ModeChange s t i
  | fault (i : Instr) (hm : s.mode = .running) (ht : t.mode = .faulted) (hf : s.fsm = .shifting)
      (hresult : t.lastResult = .aborted) : ModeChange s t i
  | reset (ha : s.agent = .host) (hm : s.mode ≠ .running) (ht : t.mode = .reset) : ModeChange s t .reset

/-- The mode after an operation of a run: where it was, or along a transition. -/
theorem exec_mode {i : Instr} {s t : State} (h : exec i s = .next t)
    (hrun : insideAStep i = false ∨ s.agent ∉ agentsOf i) : t.mode = s.mode ∨ ModeChange s t i := by
  cases exec_outcomes i s t h
  case initFails ha hm => exact .inr (.init ha hm (.inr rfl))
  case init ha hm => exact .inr (.init ha hm (.inl rfl))
  case start ha hm => exact .inr (.start ha hm rfl)
  case tickStop hm hf hr => exact .inr (.stop _ hm rfl hr (.inr hf))
  case blankStop hm hf hr => exact .inr (.stop _ hm rfl hr (.inl hf))
  case overrun hm hf _ _ | overlap hm hf _ => exact .inr (.fault _ hm rfl hf (by simp))
  case reset ha hm => exact .inr (.reset ha hm rfl)
  case emitOverlap ha _ | emitOverrun ha _ _ _ | trainOverrun ha _ _ | trainOverlap ha _ =>
    simp [ha, agentsOf, insideAStep] at hrun
  all_goals exact .inl rfl

/-- Settles O52: what is no operation leaves the mode alone or is a reset; an operation takes a transition of
`ModeChange`, for the host as the command that was next. -/
theorem modeChangesOnlyByItsTransitions : Obligations.ModeChangesOnlyByItsTransitions := by
  intro s t h hrun hne
  obtain ⟨_, _, _, _, rfl⟩ | ⟨hreset, _, rfl⟩ | ⟨i, inbox, agent, hx, hcommand, hoperation⟩ := step_command h
  · exact absurd rfl hne
  · exact .inr (.inr (.inr (.inr (.inr (.inr ⟨rfl, hreset⟩)))))
  · cases (exec_mode hx (hoperation hrun)).resolve_left hne with
    | init ha hm ht =>
      obtain ht | ht := ht
      · exact .inl ⟨hm, ht, hcommand ha⟩
      · exact .inr (.inl ⟨hm, ht, hcommand ha⟩)
    | start ha hm ht =>
      obtain hm | hm := hm
      · exact .inr (.inr (.inl ⟨hm, ht, hcommand ha⟩))
      · exact .inr (.inr (.inr (.inr (.inr (.inl ⟨hm, ht, hcommand ha⟩)))))
    | stop _ hm ht hr hf => exact .inr (.inr (.inr (.inl ⟨hm, ht, hr, hf⟩)))
    | fault _ hm ht hf hresult => exact .inr (.inr (.inr (.inr (.inl ⟨hm, ht, hf, hresult⟩))))
    | reset ha _ ht => exact .inr (.inr (.inr (.inr (.inr (.inr ⟨ht, .inr (hcommand ha)⟩)))))

/-! ## The end of a run (R175, 70_reset_and_hazards.md R232) -/

/-- In `Stopped` a state of a run is a good end, with the pins active and neither a request to stop nor an error
left. -/
theorem State.Inv.goodEnd {s : State} (h : s.Inv) (hm : s.mode = .stopped) :
    s.GoodEnd ∧ s.bus.pinsActive = true ∧ s.shutdownReq = false ∧ s.errCode = .noError := by
  have hf : s.fsm = .idle := h.idle (by simp [hm])
  have hlines := h.driven_off (h.pins.2 (.inr hm)) (by simp [hf])
  refine ⟨⟨hm, hf, h.trainBusy_off, hlines.shown, hlines.lat, hlines.clk⟩, hlines.pins, ?_,
    h.noError (by simp [hm])⟩
  exact Bool.eq_false_iff.2 fun hr => by simpa [hm] using h.shutdown hr

/-- An operation that stops the loop, `TICK` or `BLANK_DONE`, leaves alone what is the producer's, and the
colour bits and the address. -/
theorem exec_stopped {i : Instr} {s t : State} (h : exec i s = .next t) (hm : s.mode = .running)
    (ht : t.mode = .stopped) : t.fb = s.fb ∧ t.activeBuf = s.activeBuf ∧ t.swapPending = s.swapPending ∧
      t.bus.data = s.bus.data ∧ t.bus.addr = s.bus.addr := by
  cases exec_outcomes i s t h
  case tickStop => exact ⟨rfl, rfl, rfl, rfl, rfl⟩
  case blankStop => exact ⟨rfl, rfl, rfl, Bus.onTimeThenBlank_data .., Bus.onTimeThenBlank_addr ..⟩
  all_goals simp [hm] at ht

/-- Settles O58: the state reached keeps the invariant, which in `Stopped` is the good end; of a running state's
steps only an operation stops it. -/
theorem stoppingReachesTheGoodEnd : Obligations.StoppingReachesTheGoodEnd := by
  intro s t h hs hm ht
  obtain ⟨hend, hpins, hrequest, herror⟩ := (everyStepKeepsTheInvariant s t h hs).goodEnd ht
  refine ⟨hend, hpins, hrequest, herror, ?_⟩
  obtain ⟨_, _, _, _, rfl⟩ | ⟨-, _, rfl⟩ | ⟨i, inbox, agent, hx, -⟩ := step_operation hs
  · simp [hm] at ht
  · contradiction
  · exact exec_stopped (s := { s with inbox := inbox, agent := agent }) hx hm ht

end Sys2Proof.Machine
end

section
/-! PROOFS of the exceptions family (60_exceptions.md): the refusals outside an operation's FSM state or range
(R201, 30_encoding.md R90), the skipped cycle (R193), and the first error, which stays until a reset (R196). -/

namespace Sys2Proof.Machine

/-! ## Refusal out of place (R201, 30_encoding.md R90) -/

/-- A gate before a refusal refuses, open or shut. -/
theorem State.gate_refuse (s : State) (agents : List Agent) (modes : List Mode) :
    s.gate agents modes s.refuse = .next s.refuse := ite_self _

/-- `State.gate_shut`, for the FSM state: whoever asks and in whatever mode (log 8). -/
theorem State.stepGate_shut (s : State) (fsm : FsmState) (go : State) (hf : s.fsm ≠ fsm) :
    s.stepGate fsm go = .next s.refuse := by
  rw [State.stepGate, if_neg hf, State.gate_refuse]

/-- Where no overlap is reported, the range is checked before any line is driven (log 6). -/
theorem exec_emit_outOfRange (s : State) {plane : BitVec 8} {row : BitVec 16} (hf : s.fsm = .selectPlane)
    (hb : s.trainBusy = false) (hrange : s.cfg.rowAddresses ≤ row.toNat ∨ s.cfg.colorDepth.toNat ≤ plane.toNat) :
    exec (.emit plane row) s = .next s.refuse := by
  have hplace : ¬ (s.fsm ≠ .selectPlane ∨ s.trainBusy = true) := by simp [hf, hb]
  rw [exec, execEmit, if_neg hplace, if_pos hrange, State.gate_refuse]

/-- Settles O10: each internal step stands behind the gate of its FSM state, and `EMIT` checks its range. -/
theorem operationsOutOfPlaceAreRefused : Obligations.OperationsOutOfPlaceAreRefused := fun s =>
  ⟨s.stepGate_shut .idle _, s.stepGate_shut .selectPlane _, s.stepGate_shut .shifting _,
    s.stepGate_shut .latching _, s.stepGate_shut .blanking _,
    fun _ _ hf hb hrange => exec_emit_outOfRange s hf hb hrange⟩

/-! ## Recoverable entry (R193) -/

theorem exec_select_unready (s : State) (ha : s.agent = .scheduler) (hm : s.mode = .running)
    (hf : s.fsm = .selectPlane) (hr : s.env.ready = false) : exec .select s = .next s.skipCycle.quiet :=
  (State.stepGate_open s .selectPlane _ ha hm hf).trans (by rw [if_neg (by simp [hr])])

/-- Settles O29: `State.skipCycle` writes the result, the position and the FSM, and no line. -/
theorem unreadyBufferSkipsTheCycle : Obligations.UnreadyBufferSkipsTheCycle := exec_select_unready

/-! ## First error wins (R196) -/

/-- The error registers after an operation, once an error is recorded: fatal entry keeps them, and only
`RESET` changes them. -/
theorem exec_error {i : Instr} {s t : State} (h : exec i s = .next t) (he : s.errCode ≠ .noError) :
    (t.errCode = s.errCode ∧ t.errInfo = s.errInfo) ∨ (i = .reset ∧ s.agent = .host) := by
  cases exec_outcomes i s t h
  case initFails | overrun | overlap | emitOverlap | emitOverrun | trainOverrun | trainOverlap =>
    exact .inl (by simp [State.fatalEntry_errCode, State.fatalEntry_errInfo, he])
  case reset ha _ => exact .inr ⟨rfl, ha⟩
  all_goals exact .inl ⟨rfl, rfl⟩

/-- Settles O51: what is no operation leaves the error registers alone or is a reset; an operation does as
`exec_error` says. -/
theorem firstErrorStays : Obligations.FirstErrorStays := by
  intro s t h he hno
  obtain ⟨_, _, _, _, rfl⟩ | ⟨hreset, -⟩ | ⟨i, inbox, agent, hx, hreset⟩ := step_operation h
  · exact ⟨rfl, rfl⟩
  · exact absurd hreset hno
  · exact (exec_error hx he).resolve_right fun ⟨hi, ha⟩ => hno (hreset hi ha)

end Sys2Proof.Machine
end

section
/-! PROOFS of the reset and hazards family (70_reset_and_hazards.md): every step answers a next state (R232), the
hardware reset (R215, R216), the configuration outside `Reset` (R227), and the commands, which take no time
(R230). -/

namespace Sys2Proof.Machine

/-! ## No halt of its own (R232) -/

theorem State.runFreely_answers (s : State) : ∃ t, s.runFreely = .next t := by
  unfold State.runFreely
  split
  · exact exec_answers ..
  · exact ⟨s, rfl⟩

theorem State.present_answers (s : State) (a : Agent) (w : CommandWord) : ∃ t, s.present a w = .next t := by
  unfold State.present
  split
  · exact exec_answers ..
  · exact ⟨_, rfl⟩

theorem State.take_answers (s : State) (r : Request) : ∃ t, s.take r = .next t := by
  cases r with
  | op a w => exact s.present_answers a w
  | environment e => exact ⟨_, rfl⟩
  | hardwareReset => exact ⟨_, rfl⟩

/-- `step_inbox_nil`, for an inbox with a request. -/
theorem step_inbox_cons (s : State) {r : Request} {rest : List Request} (h : s.inbox = r :: rest) :
    step s = State.take { s with inbox := rest } r := by simp only [step, h]

/-- Settles O6: whatever the inbox holds, what a step does ends at an operation's gate or in a state. -/
theorem everyStepAnswersANextState : Obligations.EveryStepAnswersANextState := by
  intro s
  cases hi : s.inbox with
  | nil => rw [step_inbox_nil s hi]; exact s.runFreely_answers
  | cons r rest => rw [step_inbox_cons s hi]; exact State.take_answers ..

/-! ## The hardware reset (R215, R216) -/

/-- Of a forgotten frame buffer every location is a free value of the new epoch (20_memory.md R62, log 9). -/
theorem FrameBuffer.read_forget (f : FrameBuffer) (shape : Shape) (depth : Nat) (b : Bool) (y x : Nat)
    (c : Channel) : (f.forget shape).read depth b y x c =
      lowBits depth (Config.fbUnspecified (f.epoch + 1) (locationKey b y x c)) := rfl

/-- A reset leaves every word of `ROWBUF` a free value of a new generation (10_state.md R42, log 11). -/
theorem State.resetRegisters_rowWord (s : State) (x : Nat) :
    s.resetRegisters.rowbuf.word x = Config.rowbufUnspecified (s.rowbuf.generation + 1) x := rfl

/-- Settles O7: the event resets the registers, as `RESET` does, and forgets the frame buffer. -/
theorem hardwareResetClearsRegistersAndFrameBuffer : Obligations.HardwareResetClearsRegistersAndFrameBuffer := by
  intro s rest hi
  exact ⟨_, step_inbox_cons s hi, { State.resetRegisters_atReset { s with inbox := rest } with },
    rfl, rfl, rfl, rfl, State.resetRegisters_rowWord { s with inbox := rest }, s.fb.read_forget _⟩

/-! ## The configuration is frozen (R227, 20_memory.md R69) -/

/-- The configuration after an operation: only `LOADCFG`, in `Reset`, and `RESET` write it. -/
theorem exec_cfg {i : Instr} {s t : State} (h : exec i s = .next t) :
    t.cfg = s.cfg ∨ (i = .reset ∧ s.agent = .host) ∨ s.mode = .reset := by
  cases exec_outcomes i s t h
  case loadcfg hm _ => exact .inr (.inr hm)
  case reset ha _ => exact .inr (.inl ⟨rfl, ha⟩)
  all_goals exact .inl (by simp)

/-- Settles O50: what is no operation leaves the configuration alone or is a reset; an operation does as
`exec_cfg` says. -/
theorem configurationIsFrozen : Obligations.ConfigurationIsFrozen := by
  intro s t h hm hno
  obtain ⟨_, _, _, _, rfl⟩ | ⟨hreset, -⟩ | ⟨i, inbox, agent, hx, hreset⟩ := step_operation h
  · rfl
  · exact absurd hreset hno
  · obtain hsame | ⟨hi, ha⟩ | hmode := exec_cfg hx
    · exact hsame
    · exact absurd (hreset hi ha) hno
    · exact absurd hmode hm

/-! ## Commands take no time (R230) -/

/-- Time and trace after a command of the host or the producer: as they were, but for the `START` that activates
inactive pins. -/
theorem exec_command_timeline {i : Instr} {s t : State} (h : exec i s = .next t)
    (hagent : s.agent = .host ∨ s.agent = .producer) :
    (t.bus.now = s.bus.now ∧ t.bus.wave = s.bus.wave) ∨
      (i = .start ∧ t.bus = s.bus.activatePins s.cfg.addressLines) := by
  cases exec_outcomes i s t h
  case start =>
    cases s.bus.pinsActive with
    | true => exact .inl (by simp)
    | false => exact .inr ⟨rfl, by simp⟩
  case initFails he _ _ => obtain rfl | rfl := he <;> exact .inl (by simp)
  case refused | loadcfg | query | init | shutdown | reset | swapBuffers | fbWrite => exact .inl ⟨rfl, rfl⟩
  all_goals simp [‹s.agent = _›] at hagent

/-- Settles O55: a command keeps time and trace, or activates the pins at one time by drives to 0. -/
theorem commandsTakeNoTime : Obligations.CommandsTakeNoTime := by
  intro i s t hagent h
  obtain ⟨hnow, hwave⟩ | ⟨hstart, hbus⟩ := exec_command_timeline h hagent
  · exact ⟨hnow, fun _ => hwave, [], hwave, by simp⟩
  · rw [hbus]
    exact ⟨s.bus.activatePins_now _, absurd hstart, _, s.bus.activatePins_wave _, by simp⟩

end Sys2Proof.Machine
end
